-- ==== Sys2Proof/Word.lean ====
section
/-! DEFINITION. The word types of the controller: bytes on a wire, index types of its tables, and the
plainest arithmetic between numbers and bytes (spec/09, "Formats"). -/

namespace Sys2Proof

/-- A byte on a host link, on a two-wire bus or in the catalogue store. -/
abbrev Byte := BitVec 8

/-- A host link, L0 to L3. -/
abbrev Link := Fin 4

/-- A slot of the lease table, S0 to S47. -/
abbrev SlotIx := Fin 48

/-- An entry of the target catalogue, T0 to T31. -/
abbrev EntryIx := Fin 32

/-- A two-wire bus, B0 or B1. -/
abbrev BusIx := Fin 2

/-- A record of the transaction pool (R66); not visible to any host. -/
abbrev PoolIx := Fin 16

/-- The byte that carries a number (0 to 255 on every use of the spec). -/
def byteOf (n : Nat) : Byte := BitVec.ofNat 8 n

/-- The two bytes that carry a number, most significant first (9.9). -/
def wordBytes (n : Nat) : List Byte := [byteOf (n / 256), byteOf n]

/-- The number carried by two bytes, most significant first (9.9). -/
def wordOf (high low : Byte) : Nat := high.toNat * 256 + low.toNat

/-- A flag on the wire: 0 for no, 1 for yes (9.9). -/
def flagByte (b : Bool) : Byte := if b then 1 else 0

end Sys2Proof
end

