-- ==== Sys2Proof/Syntax.lean ====
section
/-! DEFINITION. The commands of the controller, one constructor for each row of spec/opcode_table.json.
A request command names the link whose intake takes its head frame; the tag and the arguments are in
that frame (R157). An engine command carries what the engine read on the bus, and the line levels met
at the line check that the event may make. -/

namespace Sys2Proof

/-- The levels an engine finds on its two lines, with both released by it: at a line check (R89) and at
the waits and tests of a recovery (R90). -/
inductive LineLevels where
  /-- clock and data high: a line check passes (R89.2) -/
  | bothHigh
  /-- the clock high and the data line low: a line check runs the recovery (R89.3) -/
  | dataLow
  /-- the clock low: a line check waits for it (R89.1); a recovery has waited 25 ms for it (R90) -/
  | clockLow
  deriving DecidableEq, Repr

/-- Where in an attempt a stretch fault is met (R92): the first `whole` elements of its plan were given
whole, each byte sent acknowledged, and `readings` are the levels of the data line read until then, in
order, those of the next element among them as far as it went. A last reading that refuses a byte sent puts
the stretch in the stop after that byte. -/
structure StretchPoint where
  whole : Nat
  readings : List Bool
  deriving DecidableEq, Repr

/-- The commands. The `readings` of an attempt's end are the levels of the data line that the engine
read at its points of reading, in order, high being true (R91). The levels `met` by a recovery are those
at its wait for the clock, after each of its pulses and after its stop, in order, as far as it went
(R90). -/
inductive Instr where
  | hello (link : Link)
  | bye (link : Link)
  | openLease (link : Link)
  | renew (link : Link)
  | release (link : Link)
  | changeMode (link : Link)
  | read (link : Link)
  | write (link : Link)
  | collect (link : Link)
  | queryTarget (link : Link)
  | querySlot (link : Link)
  | queryBus (link : Link)
  | queryLink (link : Link)
  | queryStart (link : Link)
  | setTarget (link : Link)
  | dropTarget (link : Link)
  | setRights (link : Link)
  | revoke (link : Link)
  | busRestore (link : Link)
  | saveCatalogue (link : Link)
  | restart (link : Link)
  | termExpiry (slot : SlotIx)
  | lapseWarning (slot : SlotIx)
  | waitExpiry (slot : SlotIx)
  | upgradeWaitExpiry (slot : SlotIx)
  | graceExpiry (link : Link)
  | restartTeardown (link : Link) (lines : LineLevels)
  | coldStart (supen : Bool) (supsel : BitVec 2) (rate : BitVec 2) (lines : LineLevels)
  | lineBreak (link : Link)
  | linkUp (link : Link)
  | characterReceived (link : Link) (char : Byte)
  | badCharacter (link : Link)
  | gapTimerExpiry (link : Link)
  | transmitFrameStart (link : Link) (holdin : Bool)
  | frameSent (link : Link)
  | takeRecord (bus : BusIx) (lines : LineLevels)
  | readOperationEnd (bus : BusIx) (readings : List Bool) (lines : LineLevels)
  | writeSegmentEnd (bus : BusIx) (readings : List Bool) (lines : LineLevels)
  | busyPollEnd (bus : BusIx) (readings : List Bool) (lines : LineLevels)
  | addressRetryWaitExpiry (bus : BusIx) (lines : LineLevels)
  | busyPollWaitExpiry (bus : BusIx) (lines : LineLevels)
  | clockStretchFault (bus : BusIx) (point : StretchPoint)
  | lineCheckClockStuck (bus : BusIx) (lines : LineLevels)
  | recoveryEnd (bus : BusIx) (met : List LineLevels) (lines : LineLevels)
  | unlistedCodeRequest (link : Link)
  deriving DecidableEq, Repr

end Sys2Proof
end

