-- ==== Sys2Proof/WellFormed.lean ====
section
/-! DEFINITION. Which command terms are well formed: an operation moves at most 64 data bytes (R66, R69,
R139) behind at most 4 other bytes (R71), and a recovery gives at most 9 pulses (R90), so what an engine
reads in one attempt or one recovery is bounded. -/

namespace Sys2Proof

/-- The operands of a command lie within what the spec lets happen. -/
def Instr.wf : Instr → Bool
  -- four acknowledgements and the bits of 64 bytes (R71, R94)
  | .readOperationEnd _ readings _ => decide (1 ≤ readings.length ∧ readings.length ≤ 516)
  -- an address byte, two offset bytes and 64 data bytes (R72, R95)
  | .writeSegmentEnd _ readings _ => decide (1 ≤ readings.length ∧ readings.length ≤ 67)
  | .busyPollEnd _ readings _ => decide (readings.length = 1)
  -- the longest plan has 71 elements, the last of them its stop (R71), and the readings of a read operation
  | .clockStretchFault _ point => decide (point.whole ≤ 70 ∧ point.readings.length ≤ 516)
  -- the wait for the clock, nine pulses and the stop (R90)
  | .recoveryEnd _ met _ => decide (1 ≤ met.length ∧ met.length ≤ 11)
  | _ => true

end Sys2Proof
end

