-- ==== Sys2Proof/Decode.lean ====
section
/-! DEFINITION. The command that a word of spec/opcode_table.json spells. No row of the table gives
bits (every "fields" is empty and none has "fixed"), so no word spells a command. Frames on a host link
are decoded in Machine/Formats.lean. -/

namespace Sys2Proof

/-- The command spelled by a word of `nbits` bits: none, since the table gives no row bits. -/
def decodeTableWord (_nbits _w : Nat) : Option Instr := none

end Sys2Proof
end

