-- ==== Sys2Proof/Config.lean ====
section
/-! DEFINITION. What the controller fixes once: the depths of its queues, its durations in ms, the
geometry of the catalogue store, and the free values, which the spec leaves open (opaque: nothing
can be proved of their value). -/

namespace Sys2Proof.Config

/-- R153: frames a request queue holds. -/
def requestQueueDepth : Nat := 4
/-- R155: frames an outbound queue holds. -/
def outboundDepth : Nat := 6
/-- R126: notices a session's queue holds. -/
def noticeDepth : Nat := 8
/-- R68: records a bus queue holds. -/
def busQueueDepth : Nat := 8

/-- R152: the gap limit between characters of a frame, ms. -/
def gapLimit : Nat := 20
/-- R150: the idle time that brings a link UP, ms. -/
def idleTime : Nat := 10
/-- R96, R97: the wait before an address retry or a further busy poll, ms. -/
def retryWait : Nat := 1
/-- The unit in which durations travel on a host link, ms (9.9). -/
def unitMs : Nat := 10

/-- R137: the address of the catalogue store on B0. -/
def storeAddress : Nat := 0x53
/-- R137: the capacity of the catalogue store, in bytes. -/
def storeCapacity : Nat := 4096
/-- R139: the most bytes one load operation reads. -/
def loadChunk : Nat := 64

/-- The code of load outcome LOADING in a QUERY-START response. Table 9-7 gives it none and no host
sees it (R142): a FREE VALUE (notes/assumptions/10.md). -/
opaque loadingCode : Byte

/-- The place of an immediate response among completions that the same event hands to the same link,
which the spec does not order: a FREE VALUE, drawn afresh for each use of the counter
`State.freeCount` (notes/assumptions/9.md). -/
opaque responsePlace : Nat → Nat

/-- What an idle step brings while an engine waits for its clock in a line check: whether the clock of
such a bus goes high there, with which level of the data line, or time passes, which is the bus's to
say: a FREE VALUE, drawn afresh for each use of the counter (notes/assumptions/6.md). -/
opaque idleEvent : Nat → Nat

end Sys2Proof.Config
end

