-- ==== Sys2Proof/Machine/State.lean ====
section
/-! DEFINITION. The state of the controller as plain data: every record, queue, timer, flag and line
the spec gives it, with `State.reset`, its value right after cold start (R135, steps 1 to 3). -/

namespace Sys2Proof.Machine

/-! ### Names with a fixed set of values -/

/-- Table 9-5. -/
inductive Status where
  | ok | waiting | badreq | nosession | starting | denied | stale | ended | notheld | mode
  | inflight | bounds | qfull | busfault | notarget | duplicate | contended | crowded | full
  | overquota | conflict | inuse | clash | saving | badstate | noack | datanak | busytimeout
  | timeout | cut | lapsed | revoked | failed | reject
  deriving DecidableEq, Repr

/-- The mode of a lease. -/
inductive Mode where
  | shared | exclusive
  deriving DecidableEq, Repr

/-- Why an ENDING lease ended (Table 1-1). -/
inductive EndCause where
  | lapsed | revoked | session | dropped
  deriving DecidableEq, Repr

/-- The state names of a slot (Table 9-7). -/
inductive SlotState where
  | free | waiting | held | ending
  deriving DecidableEq, Repr

/-- Kinds of transaction record (R66). -/
inductive TxKind where
  | read | write | store
  deriving DecidableEq, Repr

/-- States of a record in use (R66). -/
inductive TxState where
  | queued | active | done
  deriving DecidableEq, Repr

/-- The three phases of a STORE (R144). -/
inductive StorePhase where
  | invalidate | body | sign
  deriving DecidableEq, Repr

/-- Last-fault reasons of an engine (R87). -/
inductive FaultReason where
  | none | stuckData | stuckClock | stretch
  deriving DecidableEq, Repr

/-- The part state (R134). -/
inductive PartState where
  | starting | ready
  deriving DecidableEq, Repr

/-- The scope of RESTART (R147). -/
inductive Scope where
  | keep | reload
  deriving DecidableEq, Repr

/-- Load outcomes (Table 8-1), and LOADING (R142). -/
inductive LoadOutcome where
  | loading | loaded | loadedWithDefects | partialLoad | noSignature | noStore | busFault
  deriving DecidableEq, Repr

/-- Defect reasons of a block of the image (R140). -/
inductive DefectReason where
  | none | badcheck | unknown | invalid | duplicate
  deriving DecidableEq, Repr

/-- Reasons of a framer reject (R152). -/
inductive RejectReason where
  | badchar | badlength | badcheck | gap | overrun
  deriving DecidableEq, Repr

/-- The line state of a link (R150). -/
inductive LineState where
  | down | up
  deriving DecidableEq, Repr

/-- Why a lease was revoked (R125). -/
inductive RevokeReason where
  | supervisor | dropped
  deriving DecidableEq, Repr

/-- Why a wait ended (R125). -/
inductive WaitEndReason where
  | expired | dropped
  deriving DecidableEq, Repr

/-! ### The lease table (R1, Table 1-1) -/

/-- A WAITING slot's fields. -/
structure WaitingSlot where
  owner : Link
  target : EntryIx
  mode : Mode
  requestedTerm : Nat
  waitDeadline : Nat
  deriving DecidableEq, Repr

/-- A HELD slot's fields. `upgrade` is the wait deadline of a pending upgrade, none if none is pending. -/
structure HeldSlot where
  owner : Link
  target : EntryIx
  mode : Mode
  requestedTerm : Nat
  termDeadline : Nat
  upgrade : Option Nat
  lapseWarned : Bool
  inFlight : Option PoolIx
  deriving DecidableEq, Repr

/-- An ENDING slot's fields; owner none is "detached". -/
structure EndingSlot where
  owner : Option Link
  target : EntryIx
  mode : Mode
  inFlight : Option PoolIx
  cause : EndCause
  deriving DecidableEq, Repr

/-- The state of a slot with the fields that state has. -/
inductive SlotBody where
  | free
  | waiting (w : WaitingSlot)
  | held (h : HeldSlot)
  | ending (e : EndingSlot)
  deriving DecidableEq, Repr

/-- A slot record; the generation is kept through FREE. -/
structure Slot where
  generation : Nat
  body : SlotBody
  deriving DecidableEq, Repr

/-- A handle (Table 9-2) that names a slot of the table. -/
structure Handle where
  slot : SlotIx
  generation : Nat
  deriving DecidableEq, Repr

/-! ### The target catalogue (R49, R54) -/

/-- The fields of Table 3-1 in carried form (terms and warn time in units of 10 ms). -/
structure TargetFields where
  bus : Nat
  speed : Nat
  address : Nat
  offsetWidth : Nat
  pageCode : Nat
  capacityM1 : Nat
  pollLimit : Nat
  retryLimit : Nat
  cls : Nat
  defaultTerm : Nat
  maxTerm : Nat
  warnTime : Nat
  qlim : Nat
  deriving DecidableEq, Repr

/-- The state of an entry, with its fields where it has them. -/
inductive EntryBody where
  | absent
  | present (f : TargetFields)
  | retiring (f : TargetFields)
  deriving DecidableEq, Repr

/-- A target entry with its wait queue, head first (R29); the holder set is `State.holders`. -/
structure Entry where
  body : EntryBody
  waitQueue : List SlotIx
  deriving DecidableEq, Repr

/-- A host-rights record (R54); grace in units of 10 ms, bit n of a mask for class n. -/
structure Rights where
  sharedMask : Byte
  exclusiveMask : Byte
  quota : Nat
  grace : Nat
  deriving DecidableEq, Repr

/-! ### The transaction unit (R66, Table 4-1) -/

/-- What a record copies from its target entry. -/
structure Snapshot where
  address : Nat
  speed : Nat
  offsetWidth : Nat
  pageSize : Nat
  pollLimit : Nat
  retryLimit : Nat
  deriving DecidableEq, Repr

/-- A record in use. `phase` is the phase of a STORE (R144). A STORE's data is the image buffer. -/
structure Record where
  kind : TxKind
  state : TxState
  link : Link
  tag : Byte
  destination : Option Link
  handle : Option Handle
  bus : BusIx
  snapshot : Snapshot
  offset : Nat
  count : Nat
  data : List Byte
  nextStart : Nat
  bytesDone : Nat
  stopRequested : Bool
  status : Option Status
  phase : Option StorePhase
  deriving DecidableEq, Repr

/-! ### The bus engines (R87) -/

/-- An element of what an engine does on its bus (R90, R91); the steps of each on the two lines are in
Machine/Signals.lean. -/
inductive BusElement where
  | start
  | repeatedStart
  | send (b : Byte)
  /-- `receive true` is a byte received and acknowledged -/
  | receive (acknowledge : Bool)
  | stop
  /-- both lines are released (R90.1) -/
  | release
  /-- a clock pulse of a recovery, with its test of the data line (R90.3) -/
  | pulse
  deriving DecidableEq, Repr

/-- What an engine does on its bus in one attempt or one recovery: the speed of its clocks (0 for
100 kHz, 1 for 400 kHz) and the elements in order. -/
structure BusPlan where
  speed : Nat
  elements : List BusElement
  deriving DecidableEq, Repr

/-- What an attempt on the bus is: the operation or segment, or a busy poll begun at a time (R97). -/
inductive Attempt where
  | operation
  | poll (began : Nat)
  deriving DecidableEq, Repr

/-- Where an ACTIVE engine stands. -/
inductive Activity where
  /-- in the line check, waiting for the clock to go high (R89.1) -/
  | lineWait (a : Attempt)
  | onBus (a : Attempt) (plan : BusPlan)
  /-- the 1 ms wait before an address retry, to this time (R96) -/
  | retryWait (deadline : Nat)
  /-- the 1 ms wait before the next poll attempt, to this time, of a poll begun at a time (R97) -/
  | pollWait (deadline : Nat) (began : Nat)
  deriving DecidableEq, Repr

/-- How a recovery ended (R90). -/
inductive RecoveryResult where
  | success
  | clockFailed
  | dataFailed
  deriving DecidableEq, Repr

/-- Who ran the recovery (R90). -/
inductive RecoveryCause where
  | lineCheck (a : Attempt)
  | stretch
  | restore
  deriving DecidableEq, Repr

/-- The engine state (R87) with where the engine stands in it. -/
inductive EngineState where
  | idle
  | active (a : Activity)
  | recovering (c : RecoveryCause)
  | fault
  deriving DecidableEq, Repr

/-- The active work of an engine (R87). -/
inductive Work where
  | none
  | record (p : PoolIx)
  | load
  | restore
  deriving DecidableEq, Repr

/-- A bus engine. `given` is what it gave on its bus in the last attempt or recovery that ended, to the
stop or the abandonment that closed it (R90, R91; notes/assumptions/28.md). -/
structure Engine where
  state : EngineState
  lastFault : FaultReason
  work : Work
  retriesUsed : Nat
  given : BusPlan
  deriving DecidableEq, Repr

/-! ### Sessions and notices (R108, R124 to R129) -/

/-- A session record (R108). -/
inductive Session where
  | closed
  | opened (key : Nat)
  | suspended (key : Nat) (graceDeadline : Nat)
  deriving DecidableEq, Repr

/-- What a notice concerns (R124): a handle as two numbers (255, 0 for a STORE), or a bus. -/
inductive Subject where
  | handle (slot generation : Nat)
  | bus (b : BusIx)
  deriving DecidableEq, Repr

/-- Kind and detail of a notice (Table 7-2); terms and remaining times in units of 10 ms. -/
inductive Detail where
  | revoked (reason : RevokeReason) (left : SlotState)
  | lapsed (left : SlotState)
  | busFault (reason : FaultReason)
  | granted (mode : Mode) (upgrade : Bool) (term : Nat)
  | waitEnded (reason : WaitEndReason) (upgrade : Bool) (mode : Mode)
  | doneUnseen (tag : Byte) (status : Status) (kind : TxKind) (bytesDone : Nat)
  | lapsing (remaining : Nat)
  | busRestored
  deriving DecidableEq, Repr

/-- A notice (R124); its kind and class follow from its detail. -/
structure Notice where
  subject : Subject
  detail : Detail
  deriving DecidableEq, Repr

/-- A session's notice queue, its overrun flag (R126, R129) and the ATTN line of its link (R130). -/
structure NoticeUnit where
  queue : List Notice
  overrun : Bool
  attn : Bool
  deriving DecidableEq, Repr

/-! ### The link units (R150 to R157) -/

/-- A checked request frame (Table 9-1). -/
structure Frame where
  tag : Byte
  code : Byte
  body : List Byte
  deriving DecidableEq, Repr

/-- A response frame before it is formed into characters (R159). -/
structure Response where
  tag : Byte
  status : Status
  body : List Byte
  deriving DecidableEq, Repr

/-- The framer (R152): `gap` is the gap timer's deadline, `got` the characters after LEN, oldest first. -/
inductive Framer where
  | hunt
  | length (gap : Nat)
  | content (len : Nat) (got : List Byte) (gap : Nat)
  deriving DecidableEq, Repr

/-- A link unit with its intake. `sending` is the frame on TXD, as characters. `reserved` is a place of
the outbound queue kept for a response; `granted` is a place that R155 has given to the intake, until it
takes a frame (R158, notes/assumptions/29.md); `restoreHold` is the intake's hold, with the bus and the tag of
the BUS-RESTORE in progress (R102). -/
structure LinkUnit where
  line : LineState
  idleFrom : Nat
  framer : Framer
  requestQueue : List Frame
  hold : Bool
  outbound : List Response
  sending : Option (List Byte)
  reserved : Bool
  granted : Bool
  restoreHold : Option (BusIx × Byte)
  pendingReject : Option (Nat × RejectReason)
  deriving DecidableEq, Repr

/-! ### The start-up unit (R134, R138 to R148) -/

/-- The load operation handed to B0 (R138, R139). -/
inductive LoadStage where
  | signature
  | header (offset : Nat)
  | lastByte
  /-- body and CRC of the block at `offset` with this body length, `got` bytes of them read -/
  | body (offset len got : Nat)
  deriving DecidableEq, Repr

/-- A load in progress, with the entries and links whose blocks it has accepted (R140). -/
structure LoadJob where
  stage : LoadStage
  targets : List EntryIx
  rights : List Link
  deriving DecidableEq, Repr

/-- The start-up report (R142). -/
structure Report where
  outcome : LoadOutcome
  targets : Nat
  rights : Nat
  defects : Nat
  firstOffset : Nat
  firstReason : DefectReason
  deriving DecidableEq, Repr

/-- A restart in progress: its scope and the links whose teardown is still to be taken (R147). -/
structure RestartJob where
  scope : Scope
  teardowns : List Link
  deriving DecidableEq, Repr

/-! ### The whole state -/

/-- The controller. -/
structure State where
  pending : List Instr
  now : Nat
  freeCount : Nat
  supervisor : Option Link
  rate : BitVec 2
  part : PartState
  restart : Option RestartJob
  load : Option LoadJob
  report : Report
  imageBuffer : List Byte
  saveJob : Option PoolIx
  slots : Vector Slot 48
  entries : Vector Entry 32
  rights : Vector Rights 4
  pool : Vector (Option Record) 16
  doneWaiting : Vector (List PoolIx) 4
  busQueues : Vector (List PoolIx) 2
  engines : Vector Engine 2
  sessions : Vector Session 4
  notices : Vector NoticeUnit 4
  links : Vector LinkUnit 4
  deriving DecidableEq, Repr

/-- No event of the spec stops the controller: there is no fault. -/
inductive Fault where
  deriving DecidableEq, Repr

/-- Reasons for a refusal. -/
inductive Refusal where
  /-- Raised by `exec` alone, for a command without a meaning yet; safe. No arm raises it. -/
  | notModelled (mnemonic : String)
  deriving DecidableEq, Repr

/-! ### Cold start values -/

/-- R54: the default rights of a link. -/
def defaultRights (supervisor : Option Link) (l : Link) : Rights :=
  if supervisor = some l then ⟨255, 255, 8, 0⟩ else ⟨0, 0, 4, 0⟩

/-- R54: the default rights of the four links. -/
def allDefaultRights (supervisor : Option Link) : Vector Rights 4 :=
  #v[defaultRights supervisor 0, defaultRights supervisor 1, defaultRights supervisor 2,
    defaultRights supervisor 3]

/-- R142: the report at the start of a load. -/
def emptyReport : Report := ⟨.loading, 0, 0, 0, 0, .none⟩

/-- R138: the load at its first operation. -/
def firstLoad : LoadJob := ⟨.signature, [], []⟩

/-- R87: an engine's cold start values; it has given nothing on its bus. -/
def coldEngine : Engine := ⟨.idle, .none, .none, 0, ⟨0, []⟩⟩

/-- R150, R156, R157: a link unit's cold start values; the idle measure begins at `now`. -/
def coldLink (now : Nat) : LinkUnit := ⟨.down, now, .hunt, [], false, [], none, false, false, none, none⟩

/-- R135, steps 1 to 3, with the first load operation handed to B0: the values every block takes at
cold start. What is not of the spec's machine (`pending`, `now`, `freeCount`) is given. -/
def coldState (pending : List Instr) (now freeCount : Nat) (supervisor : Option Link)
    (rate : BitVec 2) : State where
  pending := pending
  now := now
  freeCount := freeCount
  supervisor := supervisor
  rate := rate
  part := .starting
  restart := none
  load := some firstLoad
  report := emptyReport
  imageBuffer := []
  saveJob := none
  slots := Vector.replicate 48 ⟨1, .free⟩
  entries := Vector.replicate 32 ⟨.absent, []⟩
  rights := allDefaultRights supervisor
  pool := Vector.replicate 16 none
  doneWaiting := Vector.replicate 4 []
  busQueues := Vector.replicate 2 []
  engines := Vector.replicate 2 coldEngine
  sessions := Vector.replicate 4 .closed
  notices := Vector.replicate 4 ⟨[], false, false⟩
  links := Vector.replicate 4 (coldLink now)

/-- The controller right after reset: R135, steps 1 to 3, with the straps at the values of
notes/assumptions/4.md and the time 0. -/
def State.reset : State := coldState [] 0 0 none 0

end Sys2Proof.Machine
end

