-- ==== Sys2Proof/Machine/Signals.lean ====
section
/-! DEFINITION. Signalling on a bus: the steps of each element on the two lines (R91), the course of an
attempt by the levels the engine reads (R91, R93), and the course of a recovery by the levels it meets
(R90). -/

namespace Sys2Proof.Machine

/-! ### The two lines (R91) -/

/-- A step of the engine on its two lines: it releases a line (true) or drives it low (false), or reads
the data line with the clock high. After each release of the clock it waits for the clock to go high
(R92). -/
inductive LineStep where
  | clock (released : Bool)
  | data (released : Bool)
  | readData
  deriving DecidableEq, Repr

/-- The bits of a byte, most significant first (R91). -/
def bitsOf (b : Byte) : List Bool := (List.range 8).map fun i => b.getLsbD (7 - i)

/-- The byte of eight bits, most significant first (R91). -/
def byteOfBits (bits : List Bool) : Byte :=
  BitVec.ofNat 8 (bits.foldl (fun n bit => 2 * n + bit.toNat) 0)

/-- R91: a bit sent: set while the clock is low, held while it is high. -/
def sendBit (bit : Bool) : List LineStep := [.data bit, .clock true, .clock false]

/-- R91: a bit received: read while the clock is high. -/
def readBit : List LineStep := [.clock true, .readData, .clock false]

/-- R90, R91: the steps of an element. A stop drives the clock low first; within an operation it is low
already. R90.1 releases both lines in no stated order: the data line first is the model's choice
(notes/assumptions/31.md). -/
def BusElement.steps : BusElement → List LineStep
  | .start => [.data false, .clock false]
  | .repeatedStart => [.data true, .clock true, .data false, .clock false]
  | .send b => (bitsOf b).flatMap sendBit ++ .data true :: readBit
  | .receive acknowledge =>
    .data true :: (List.replicate 8 readBit).flatten ++ sendBit (!acknowledge)
  | .stop => [.clock false, .data false, .clock true, .data true]
  | .release => [.data true, .clock true]
  | .pulse => [.clock false, .clock true, .readData]

/-- The steps of a plan on the two lines, in order. -/
def BusPlan.steps (plan : BusPlan) : List LineStep := plan.elements.flatMap BusElement.steps

/-! ### The course of an attempt (R91, R93 to R95, R97) -/

/-- What came of an attempt: the elements given, how many of its bytes sent were acknowledged, whether
one was refused, and the bytes received. -/
structure BusRun where
  given : List BusElement
  acknowledged : Nat
  refused : Bool
  data : List Byte
  deriving DecidableEq, Repr

/-- One more element before a run. -/
def BusRun.after (e : BusElement) (run : BusRun) : BusRun := { run with given := e :: run.given }

/-- R91: a byte sent and acknowledged before a run. -/
def BusRun.afterSent (b : Byte) (run : BusRun) : BusRun :=
  { run.after (.send b) with acknowledged := run.acknowledged + 1 }

/-- R91: a byte received before a run. -/
def BusRun.afterReceived (acknowledge : Bool) (b : Byte) (run : BusRun) : BusRun :=
  { run.after (.receive acknowledge) with data := b :: run.data }

/-- R91, R94, R95, R97: the course of an attempt at these elements, by the levels read in order (high is
true). Low on a ninth clock is ACK; high is NACK, after which the engine issues a stop and nothing more.
None where the levels are too few or too many for the elements (notes/assumptions/20.md). -/
def runElements : List BusElement → List Bool → Option BusRun
  | [], [] => some ⟨[], 0, false, []⟩
  | [], _ :: _ => none
  | .send _ :: _, [] => none
  | .send b :: rest, false :: levels => (runElements rest levels).map (.afterSent b)
  | .send b :: _, true :: levels =>
    if levels = [] then some ⟨[.send b, .stop], 0, true, []⟩ else none
  | .receive acknowledge :: rest, levels =>
    if levels.length < 8 then none
    else (runElements rest (levels.drop 8)).map
      (.afterReceived acknowledge (byteOfBits (levels.take 8)))
  | .start :: rest, levels => (runElements rest levels).map (.after .start)
  | .repeatedStart :: rest, levels => (runElements rest levels).map (.after .repeatedStart)
  | .stop :: rest, levels => (runElements rest levels).map (.after .stop)
  | .release :: rest, levels => (runElements rest levels).map (.after .release)
  | .pulse :: rest, levels => (runElements rest levels).map (.after .pulse)

/-- The readings of the data line that the course of an attempt takes at an element given whole. -/
def BusElement.readCount : BusElement → Nat
  | .send _ => 1
  | .receive _ => 8
  | .start => 0
  | .repeatedStart => 0
  | .stop => 0
  | .release => 0
  | .pulse => 0

/-- R91, R92: what had come of an attempt at a stretch met after a run of whole elements: within the next
element, with these readings of it, or in the stop after it where it is a byte sent and refused. A byte
received has arrived with its eighth bit. None where the readings are not those of the element
(notes/assumptions/20.md). -/
def BusRun.stretchedIn (run : BusRun) (e : BusElement) (bits : List Bool) : Option BusRun :=
  match e, bits with
  | _, [] => some run
  | .send _, [true] => some { run with given := run.given ++ [e], refused := true }
  | .receive _, bits =>
    if bits.length < 8 then some run
    else if bits.length = 8 then some { run with data := run.data ++ [byteOfBits bits] }
    else none
  | _, _ => none

/-- R92: what had come of an attempt at these elements when a stretch is met at a point of it. None where
the attempt has no such point (notes/assumptions/20.md). -/
def runToStretch (elements : List BusElement) (point : StretchPoint) : Option BusRun :=
  let front := elements.take point.whole
  let read := (front.map BusElement.readCount).sum
  match elements[point.whole]?, runElements front (point.readings.take read) with
  | some e, some run => if run.refused then none else run.stretchedIn e (point.readings.drop read)
  | _, _ => none

/-- The bytes sent among some elements. -/
def sentBytes (elements : List BusElement) : List Byte :=
  elements.filterMap fun
    | .send b => some b
    | _ => none

/-! ### The course of a recovery (R90) -/

/-- What a recovery gave on the bus, at 100 kHz, and how it ended. -/
structure Recovery where
  given : List BusElement
  result : RecoveryResult
  deriving DecidableEq, Repr

/-- One more element before the rest of a recovery. -/
def Recovery.after (e : BusElement) (rec : Recovery) : Recovery :=
  { rec with given := e :: rec.given }

/-- R90.4: the stop, and the test that both lines then stand high. The rule names the data line that does
not rise; a clock that does not is a failure on the clock (notes/assumptions/27.md). -/
def recoveryStop : List LineLevels → Option Recovery
  | [.bothHigh] => some ⟨[.stop], .success⟩
  | [.dataLow] => some ⟨[.stop], .dataFailed⟩
  | [.clockLow] => some ⟨[.stop], .clockFailed⟩
  | _ => none

/-- R90.3: up to `left` more clock pulses, none after the data line is found high. -/
def recoveryPulses : Nat → List LineLevels → Option Recovery
  | 0, [] => some ⟨[], .dataFailed⟩
  | 0, _ :: _ => none
  | _ + 1, [] => none
  | left + 1, .dataLow :: met => (recoveryPulses left met).map (.after .pulse)
  | _ + 1, .bothHigh :: met => (recoveryStop met).map (.after .pulse)
  | _ + 1, .clockLow :: met => if met = [] then some ⟨[.pulse], .clockFailed⟩ else none

/-- R90.3: the most clock pulses a recovery gives. -/
def recoveryPulseLimit : Nat := 9

/-- R90: the course of a recovery, by the levels met at the wait for the clock, after each pulse and
after the stop. None where they are too few or too many (notes/assumptions/20.md). -/
def runRecovery : List LineLevels → Option Recovery
  | [] => none
  | .clockLow :: met => if met = [] then some ⟨[.release], .clockFailed⟩ else none
  | .bothHigh :: met => (recoveryStop met).map (.after .release)
  | .dataLow :: met => (recoveryPulses recoveryPulseLimit met).map (.after .release)

end Sys2Proof.Machine
end

