-- ==== Sys2Proof/Machine/Formats.lean ====
section
/-! DEFINITION. The Formats of 9.9: codes of enumerated values, the CRC-16, frames, request codes and
bodies, target fields, notices, and the blocks of the catalogue image. -/

namespace Sys2Proof.Machine

/-! ### Codes (Tables 9-5, 9-7, 9-8) -/

/-- Table 9-5. -/
def Status.code : Status → Byte
  | .ok => 0x00 | .waiting => 0x01 | .badreq => 0x10 | .nosession => 0x11 | .starting => 0x12
  | .denied => 0x13 | .stale => 0x14 | .ended => 0x15 | .notheld => 0x16 | .mode => 0x17
  | .inflight => 0x18 | .bounds => 0x19 | .qfull => 0x1A | .busfault => 0x1B | .notarget => 0x20
  | .duplicate => 0x21 | .contended => 0x22 | .crowded => 0x23 | .full => 0x24
  | .overquota => 0x25 | .conflict => 0x26 | .inuse => 0x30 | .clash => 0x31 | .saving => 0x32
  | .badstate => 0x33 | .noack => 0x40 | .datanak => 0x41 | .busytimeout => 0x42
  | .timeout => 0x43 | .cut => 0x44 | .lapsed => 0x45 | .revoked => 0x46 | .failed => 0x47
  | .reject => 0x7F

/-- Table 9-7, mode. -/
def Mode.code : Mode → Byte
  | .shared => 0 | .exclusive => 1

/-- Table 9-7, mode, read: none for any other value (R7, R18). -/
def modeOf (b : Byte) : Option Mode :=
  if b = 0 then some .shared else if b = 1 then some .exclusive else none

/-- Table 9-7, slot state. -/
def SlotState.code : SlotState → Byte
  | .free => 0 | .waiting => 1 | .held => 2 | .ending => 3

/-- Table 9-7, end cause. -/
def EndCause.code : EndCause → Byte
  | .lapsed => 1 | .revoked => 2 | .session => 3 | .dropped => 4

/-- Table 9-7, last-fault reason. -/
def FaultReason.code : FaultReason → Byte
  | .none => 0 | .stuckData => 1 | .stuckClock => 2 | .stretch => 3

/-- Table 9-7, engine state. -/
def EngineState.code : EngineState → Byte
  | .idle => 0 | .active _ => 1 | .recovering _ => 2 | .fault => 3

/-- Table 9-7, line state. -/
def LineState.code : LineState → Byte
  | .down => 0 | .up => 1

/-- Table 9-7, session state. -/
def Session.code : Session → Byte
  | .closed => 0 | .opened _ => 1 | .suspended _ _ => 2

/-- Table 9-7, transaction kind. -/
def TxKind.code : TxKind → Byte
  | .read => 0 | .write => 1 | .store => 2

/-- Table 9-7, load outcome; LOADING has no code (R142). -/
def LoadOutcome.code : LoadOutcome → Byte
  | .loaded => 0 | .loadedWithDefects => 1 | .partialLoad => 2 | .noSignature => 3
  | .noStore => 4 | .busFault => 5 | .loading => Config.loadingCode

/-- Table 9-7, defect reason. -/
def DefectReason.code : DefectReason → Byte
  | .none => 0 | .badcheck => 1 | .unknown => 2 | .invalid => 3 | .duplicate => 4

/-- Table 9-7, reject reason. -/
def RejectReason.code : RejectReason → Byte
  | .badchar => 1 | .badlength => 2 | .badcheck => 3 | .gap => 4 | .overrun => 5

/-- Table 9-7, RESTART scope, read: none for any other value (R147). -/
def scopeOf (b : Byte) : Option Scope :=
  if b = 0 then some .keep else if b = 1 then some .reload else none

/-- Table 9-7, REVOKED reason. -/
def RevokeReason.code : RevokeReason → Byte
  | .supervisor => 0 | .dropped => 1

/-- Table 9-7, WAIT-ENDED reason. -/
def WaitEndReason.code : WaitEndReason → Byte
  | .expired => 0 | .dropped => 1

/-- Table 9-7, entry state. -/
def EntryBody.code : EntryBody → Byte
  | .absent => 0 | .present _ => 1 | .retiring _ => 2

/-! ### CRC-16 (R159) -/

/-- One bit of the CRC: polynomial 0x1021, no reflection. -/
def crcShift (c : BitVec 16) : BitVec 16 :=
  if c.msb then (c <<< 1) ^^^ 0x1021#16 else c <<< 1

/-- One byte of the CRC, most significant bit first. -/
def crcByte (c : BitVec 16) (b : Byte) : BitVec 16 :=
  crcShift (crcShift (crcShift (crcShift (crcShift (crcShift (crcShift (crcShift
    (c ^^^ (b.setWidth 16 <<< 8)))))))))

/-- The CRC-16 of a list of bytes: initial value 0xFFFF, no final inversion. -/
def crc16 (bs : List Byte) : BitVec 16 := bs.foldl crcByte 0xFFFF#16

/-- The CRC-16 as two bytes, high byte first. -/
def crcBytes (bs : List Byte) : List Byte := wordBytes (crc16 bs).toNat

/-! ### Frames (Table 9-1) -/

/-- The first character of a request frame. -/
def requestStart : Byte := 0xB5
/-- The first character of a response frame. -/
def responseStart : Byte := 0xB6

/-- LEN through the last byte of BODY of a frame with this tag, third byte and body. -/
def frameCore (tag code : Byte) (body : List Byte) : List Byte :=
  byteOf (body.length + 2) :: tag :: code :: body

/-- The characters of a request frame, as a host sends it. -/
def requestCharacters (f : Frame) : List Byte :=
  requestStart :: (frameCore f.tag f.code f.body ++ crcBytes (frameCore f.tag f.code f.body))

/-- R159: the characters of a response frame. -/
def responseCharacters (r : Response) : List Byte :=
  responseStart ::
    (frameCore r.tag r.status.code r.body ++ crcBytes (frameCore r.tag r.status.code r.body))

/-- The byte of a body at a place, counted from 0; the length has been checked (R157). -/
def byteAt (b : List Byte) (k : Nat) : Byte := b.getD k 0

/-- The number in two bytes of a body. -/
def wordAt (b : List Byte) (k : Nat) : Nat := wordOf (byteAt b k) (byteAt b (k + 1))

/-! ### Request codes (Table 9-3) -/

/-- The listed requests. -/
inductive Request where
  | hello | bye | openLease | renew | release | changeMode | read | write | collect
  | queryTarget | querySlot | queryBus | queryLink | queryStart
  | setTarget | dropTarget | setRights | revoke | busRestore | saveCatalogue | restart
  deriving DecidableEq, Repr

/-- Table 9-3, in its order. -/
def allRequests : List Request :=
  [.hello, .bye, .openLease, .renew, .release, .changeMode, .read, .write, .collect, .queryTarget,
    .querySlot, .queryBus, .queryLink, .queryStart, .setTarget, .dropTarget, .setRights, .revoke,
    .busRestore, .saveCatalogue, .restart]

/-- Table 9-3, codes. -/
def Request.code : Request → Byte
  | .hello => 0x01 | .bye => 0x02 | .openLease => 0x10 | .renew => 0x11 | .release => 0x12
  | .changeMode => 0x13 | .read => 0x20 | .write => 0x21 | .collect => 0x30
  | .queryTarget => 0x40 | .querySlot => 0x41 | .queryBus => 0x42 | .queryLink => 0x43
  | .queryStart => 0x44 | .setTarget => 0x50 | .dropTarget => 0x51 | .setRights => 0x52
  | .revoke => 0x53 | .busRestore => 0x54 | .saveCatalogue => 0x55 | .restart => 0x56

/-- The request a CODE stands for, if it is in Table 9-3. -/
def requestOf (code : Byte) : Option Request := allRequests.find? fun r => r.code == code

/-- R157, check 2: the body length of Table 9-3, and for READ a count of 1 to 64 (R69). -/
def Request.bodyOk (r : Request) (body : List Byte) : Bool :=
  match r with
  | .hello => body.length == 2
  | .bye => body.length == 0
  | .openLease => body.length == 6
  | .renew => body.length == 5
  | .release => body.length == 3
  | .changeMode => body.length == 6
  | .read =>
    body.length == 6 && decide (1 ≤ (byteAt body 5).toNat) && decide ((byteAt body 5).toNat ≤ 64)
  | .write => decide (6 ≤ body.length) && decide (body.length ≤ 69)
  | .collect => body.length == 1
  | .queryTarget => body.length == 1
  | .querySlot => body.length == 1
  | .queryBus => body.length == 1
  | .queryLink => body.length == 1
  | .queryStart => body.length == 0
  | .setTarget => body.length == 15
  | .dropTarget => body.length == 1
  | .setRights => body.length == 6
  | .revoke => body.length == 3
  | .busRestore => body.length == 1
  | .saveCatalogue => body.length == 0
  | .restart => body.length == 1

/-- Table 9-3: the requests marked supervisor. -/
def Request.supervisor : Request → Bool
  | .querySlot | .queryBus | .queryLink | .queryStart | .setTarget | .dropTarget | .setRights
  | .revoke | .busRestore | .saveCatalogue | .restart => true
  | .hello | .bye | .openLease | .renew | .release | .changeMode | .read | .write | .collect
  | .queryTarget => false

/-! ### Target fields and rights (Table 9-4, Table 9-3) -/

/-- The upper and lower 4 bits of a byte. -/
def highNibble (b : Byte) : Nat := b.toNat / 16
/-- The lower 4 bits of a byte. -/
def lowNibble (b : Byte) : Nat := b.toNat % 16

/-- Table 9-4, read from the 14 bytes of `b` that begin at `k`. -/
def fieldsAt (b : List Byte) (k : Nat) : TargetFields where
  bus := highNibble (byteAt b k)
  speed := lowNibble (byteAt b k)
  address := (byteAt b (k + 1)).toNat
  offsetWidth := highNibble (byteAt b (k + 2))
  pageCode := lowNibble (byteAt b (k + 2))
  capacityM1 := wordAt b (k + 3)
  pollLimit := (byteAt b (k + 5)).toNat
  retryLimit := highNibble (byteAt b (k + 6))
  cls := lowNibble (byteAt b (k + 6))
  defaultTerm := wordAt b (k + 7)
  maxTerm := wordAt b (k + 9)
  warnTime := wordAt b (k + 11)
  qlim := (byteAt b (k + 13)).toNat

/-- Table 9-4, written. -/
def fieldBytes (f : TargetFields) : List Byte :=
  [byteOf (f.bus * 16 + f.speed), byteOf f.address, byteOf (f.offsetWidth * 16 + f.pageCode)]
    ++ wordBytes f.capacityM1 ++ [byteOf f.pollLimit, byteOf (f.retryLimit * 16 + f.cls)]
    ++ wordBytes f.defaultTerm ++ wordBytes f.maxTerm ++ wordBytes f.warnTime ++ [byteOf f.qlim]

/-- The rights values of a SET-RIGHTS body (after its link byte), read from place `k`. -/
def rightsAt (b : List Byte) (k : Nat) : Rights :=
  ⟨byteAt b k, byteAt b (k + 1), (byteAt b (k + 2)).toNat, wordAt b (k + 3)⟩

/-- The five bytes of a rights record (Table 9-3, SET-RIGHTS, without its link). -/
def rightsBytes (r : Rights) : List Byte :=
  [r.sharedMask, r.exclusiveMask, byteOf r.quota] ++ wordBytes r.grace

/-- R63: quota 1 to 24, grace at most 6000 units. -/
def Rights.valid (r : Rights) : Bool :=
  decide (1 ≤ r.quota) && decide (r.quota ≤ 24) && decide (r.grace ≤ 6000)

/-- The capacity of a target, in bytes. -/
def TargetFields.capacity (f : TargetFields) : Nat := f.capacityM1 + 1

/-- The page size of a target, in bytes. -/
def TargetFields.pageSize (f : TargetFields) : Nat := 2 ^ f.pageCode

/-- The bus of a target. -/
def TargetFields.busIx (f : TargetFields) : BusIx := if f.bus = 0 then 0 else 1

/-- R50: a valid set of target fields. -/
def TargetFields.valid (f : TargetFields) : Bool :=
  decide (f.bus ≤ 1) && decide (f.speed ≤ 1) && decide (f.offsetWidth ≤ 2)
    && decide (0x08 ≤ f.address) && decide (f.address ≤ 0x77)
    && !(f.bus == 0 && f.address == Config.storeAddress)
    && (!(f.offsetWidth == 0) || decide (f.capacity ≤ 64))
    && (!(f.offsetWidth == 1) || decide (f.capacity ≤ 256))
    && decide (f.capacity ≤ 65536)
    && decide (f.pageCode ≤ 7) && decide (f.pageSize ≤ f.capacity)
    && decide (f.pollLimit ≤ 50) && decide (f.retryLimit ≤ 7)
    && decide (f.cls ≤ 7) && decide (f.qlim ≤ 12)
    && decide (1 ≤ f.maxTerm) && decide (f.maxTerm ≤ 60000)
    && decide (1 ≤ f.defaultTerm) && decide (f.defaultTerm ≤ f.maxTerm)
    && decide (f.warnTime ≤ 6000)

/-- The fields an entry carries (R49): those of PRESENT and RETIRING. -/
def EntryBody.fields? : EntryBody → Option TargetFields
  | .absent => none
  | .present f => some f
  | .retiring f => some f

/-! ### Notices (Tables 7-1, 7-2, 9-8) -/

/-- Table 9-8, kind. -/
def Detail.kind : Detail → Nat
  | .revoked _ _ => 1 | .lapsed _ => 2 | .busFault _ => 3 | .granted _ _ _ => 4
  | .waitEnded _ _ _ => 5 | .doneUnseen _ _ _ _ => 6 | .lapsing _ => 7 | .busRestored => 8

/-- Table 7-1: the notice class of a kind. -/
def Detail.noticeClass : Detail → Nat
  | .revoked _ _ => 1 | .lapsed _ => 1 | .busFault _ => 1 | .granted _ _ _ => 2
  | .waitEnded _ _ _ => 2 | .doneUnseen _ _ _ _ => 2 | .lapsing _ => 3 | .busRestored => 3

/-- The notice class of a notice. -/
def Notice.cls (n : Notice) : Nat := n.detail.noticeClass

/-- R127: same kind and same subject. -/
def Notice.matches (n m : Notice) : Bool :=
  n.detail.kind == m.detail.kind && decide (n.subject = m.subject)

/-- Table 9-8, subject. -/
def Subject.bytes : Subject → List Byte
  | .handle i g => byteOf i :: wordBytes g
  | .bus b => [byteOf b.val, 0, 0]

/-- Table 9-8, detail. -/
def Detail.bytes : Detail → List Byte
  | .revoked r st => [r.code, st.code, 0, 0]
  | .lapsed st => [st.code, 0, 0, 0]
  | .busFault r => [r.code, 0, 0, 0]
  | .granted m u t => m.code :: flagByte u :: wordBytes t
  | .waitEnded r u m => [r.code, flagByte u, m.code, 0]
  | .doneUnseen tag st k n => [tag, st.code, k.code, byteOf n]
  | .lapsing t => wordBytes t ++ [0, 0]
  | .busRestored => [0, 0, 0, 0]

/-- Table 9-8: the eight bytes of a notice. -/
def Notice.bytes (n : Notice) : List Byte :=
  byteOf n.detail.kind :: (n.subject.bytes ++ n.detail.bytes)

/-- A handle as the subject of a notice. -/
def Handle.subject (h : Handle) : Subject := .handle h.slot.val h.generation

/-- The three bytes of a handle (Table 9-2). -/
def handleBytes (i : SlotIx) (generation : Nat) : List Byte :=
  byteOf i.val :: wordBytes generation

/-! ### The catalogue image (Table 9-9) -/

/-- The signature of the image. -/
def signature : List Byte := [0xA4, 0x16]

/-- A block other than END: kind, length, body and CRC. -/
def imageBlock (kind : Byte) (body : List Byte) : List Byte :=
  (kind :: byteOf body.length :: body) ++ crcBytes (kind :: byteOf body.length :: body)

/-- The TARGET block of an entry. -/
def targetBlock (t : EntryIx) (f : TargetFields) : List Byte :=
  imageBlock 0x01 (byteOf t.val :: fieldBytes f)

/-- The RIGHTS block of a link. -/
def rightsBlock (l : Link) (r : Rights) : List Byte :=
  imageBlock 0x02 (byteOf l.val :: rightsBytes r)

end Sys2Proof.Machine
end

