-- ==== Sys2Proof/Machine/Ops.lean ====
section
/-! DEFINITION. The named operations every meaning is written with: reading and writing one record of
the state, the notice unit (R126 to R130), and the outbound queue of a link (R155 to R157). -/

namespace Sys2Proof.Machine

/-! ### Index lists -/

/-- S0 to S47. -/
def slotIndices : List SlotIx := List.finRange 48
/-- T0 to T31. -/
def entryIndices : List EntryIx := List.finRange 32
/-- The pool records. -/
def poolIndices : List PoolIx := List.finRange 16
/-- L0 to L3. -/
def linkIndices : List Link := List.finRange 4

/-! ### Reading one record -/

def State.slot (s : State) (i : SlotIx) : Slot := s.slots[i]
def State.entry (s : State) (t : EntryIx) : Entry := s.entries[t]
def State.rightsOf (s : State) (l : Link) : Rights := s.rights[l]
def State.record (s : State) (p : PoolIx) : Option Record := s.pool[p]
def State.waitingDone (s : State) (l : Link) : List PoolIx := s.doneWaiting[l]
def State.busQueue (s : State) (b : BusIx) : List PoolIx := s.busQueues[b]
def State.engine (s : State) (b : BusIx) : Engine := s.engines[b]
def State.session (s : State) (l : Link) : Session := s.sessions[l]
def State.notice (s : State) (l : Link) : NoticeUnit := s.notices[l]
def State.link (s : State) (l : Link) : LinkUnit := s.links[l]

/-! ### Writing one record -/

def State.setSlot (s : State) (i : SlotIx) (x : Slot) : State := { s with slots := s.slots.set i x }
def State.setEntry (s : State) (t : EntryIx) (x : Entry) : State :=
  { s with entries := s.entries.set t x }
def State.setRights (s : State) (l : Link) (x : Rights) : State :=
  { s with rights := s.rights.set l x }
def State.setRecord (s : State) (p : PoolIx) (x : Option Record) : State :=
  { s with pool := s.pool.set p x }
def State.setWaitingDone (s : State) (l : Link) (x : List PoolIx) : State :=
  { s with doneWaiting := s.doneWaiting.set l x }
def State.setBusQueue (s : State) (b : BusIx) (x : List PoolIx) : State :=
  { s with busQueues := s.busQueues.set b x }
def State.setEngine (s : State) (b : BusIx) (x : Engine) : State :=
  { s with engines := s.engines.set b x }
def State.setSession (s : State) (l : Link) (x : Session) : State :=
  { s with sessions := s.sessions.set l x }
def State.setNotice (s : State) (l : Link) (x : NoticeUnit) : State :=
  { s with notices := s.notices.set l x }
def State.setLink (s : State) (l : Link) (x : LinkUnit) : State :=
  { s with links := s.links.set l x }
/-- Write the state of a slot; its generation is kept (R1). -/
def State.setBody (s : State) (i : SlotIx) (x : SlotBody) : State :=
  s.setSlot i { s.slot i with body := x }
/-- The slot becomes FREE, keeping its generation (R1). -/
def State.freeSlot (s : State) (i : SlotIx) : State := s.setBody i .free
/-- Write the wait queue of a target. -/
def State.setWaitQueue (s : State) (t : EntryIx) (q : List SlotIx) : State :=
  s.setEntry t { s.entry t with waitQueue := q }
/-- Bring the time to `t` if it is not there yet (notes/assumptions/2.md). -/
def State.advanceTo (s : State) (t : Nat) : State := { s with now := max s.now t }
def State.setPart (s : State) (x : PartState) : State := { s with part := x }
def State.setRestart (s : State) (x : Option RestartJob) : State := { s with restart := x }
def State.setLoad (s : State) (x : Option LoadJob) : State := { s with load := x }
def State.setReport (s : State) (x : Report) : State := { s with report := x }
def State.setImage (s : State) (x : List Byte) : State := { s with imageBuffer := x }
def State.setSaveJob (s : State) (x : Option PoolIx) : State := { s with saveJob := x }
def State.setFreeCount (s : State) (x : Nat) : State := { s with freeCount := x }

/-! ### Views of slots -/

/-- The state name of a slot. -/
def SlotBody.stateName : SlotBody → SlotState
  | .free => .free
  | .waiting _ => .waiting
  | .held _ => .held
  | .ending _ => .ending

/-- The owner of a slot that has one (R1, Table 1-1). -/
def SlotBody.owner? : SlotBody → Option Link
  | .free => none
  | .waiting w => some w.owner
  | .held h => some h.owner
  | .ending e => e.owner

/-- The target of a slot that is not FREE. -/
def SlotBody.target? : SlotBody → Option EntryIx
  | .free => none
  | .waiting w => some w.target
  | .held h => some h.target
  | .ending e => some e.target

/-- R27: the target a slot occupies and its mode there, for HELD and ENDING. -/
def SlotBody.holding? : SlotBody → Option (EntryIx × Mode)
  | .held h => some (h.target, h.mode)
  | .ending e => some (e.target, e.mode)
  | .free => none
  | .waiting _ => none

/-- R5: the slot count of the session of a link. -/
def State.slotCount (s : State) (l : Link) : Nat :=
  slotIndices.countP fun i => decide ((s.slot i).body.owner? = some l)

/-- Is any slot other than FREE on this target? -/
def State.targetInUse (s : State) (t : EntryIx) : Bool :=
  slotIndices.any fun i => decide ((s.slot i).body.target? = some t)

/-- The lapse warn time of a target, in ms; 0 where the entry has no fields. -/
def State.warnMs (s : State) (t : EntryIx) : Nat :=
  match (s.entry t).body.fields? with
  | some f => f.warnTime * Config.unitMs
  | none => 0

/-! ### The notice unit -/

/-- Is the session OPEN? -/
def Session.isOpen : Session → Bool
  | .opened _ => true
  | _ => false

/-- Is the session CLOSED? -/
def Session.isClosed : Session → Bool
  | .closed => true
  | _ => false

/-- R130: the level of ATTN. -/
def attnLevel (ss : Session) (q : List Notice) : Bool := ss.isOpen && !q.isEmpty

/-- R130: ATTN follows the session and the queue. -/
def State.refreshAttn (s : State) (l : Link) : State :=
  s.setNotice l { s.notice l with attn := attnLevel (s.session l) (s.notice l).queue }

/-- R126: store a notice after every notice of its class or a lesser one. -/
def insertNotice (n : Notice) : List Notice → List Notice
  | [] => [n]
  | m :: ms => if m.cls ≤ n.cls then m :: insertNotice n ms else n :: m :: ms

/-- R127, R128: what an offered notice makes of a queue and its overrun flag. -/
def NoticeUnit.offer (u : NoticeUnit) (n : Notice) : NoticeUnit :=
  if u.queue.any n.matches then u
  else if u.queue.length < Config.noticeDepth then { u with queue := insertNotice n u.queue }
  else
    match u.queue.getLast? with
    | some last =>
      if n.cls < last.cls then
        { u with queue := insertNotice n u.queue.dropLast, overrun := true }
      else { u with overrun := true }
    | none => { u with overrun := true }

/-- R126: hand a notice to the session of a link. -/
def State.offerNotice (s : State) (l : Link) (n : Notice) : State :=
  if (s.session l).isClosed then s
  else (s.setNotice l ((s.notice l).offer n)).refreshAttn l

/-- R116.3, R133: the queue is emptied and the overrun flag cleared. -/
def State.clearNotices (s : State) (l : Link) : State :=
  s.setNotice l { s.notice l with queue := [], overrun := false }

/-- Change a session record; ATTN follows (R130). -/
def State.putSession (s : State) (l : Link) (x : Session) : State :=
  (s.setSession l x).refreshAttn l

/-- The handle of a slot as it now stands, as a notice's subject (R45, R124). -/
def State.slotSubject (s : State) (i : SlotIx) : Subject := .handle i.val (s.slot i).generation

/-! ### The outbound queue -/

/-- The places of the outbound queue that hold a frame, are reserved, or have been given to the intake
(R155, R158). -/
def LinkUnit.placesTaken (u : LinkUnit) : Nat :=
  u.outbound.length + (if u.reserved then 1 else 0) + (if u.granted then 1 else 0)

/-- R155: is a place available? It holds no frame, is not reserved, and is not one that a claimant has
been given already (R158). -/
def LinkUnit.placeAvailable (u : LinkUnit) : Bool := decide (u.placesTaken < Config.outboundDepth)

/-- Place a frame at the tail of the outbound queue. -/
def State.pushOutbound (s : State) (l : Link) (r : Response) : State :=
  s.setLink l { s.link l with outbound := (s.link l).outbound ++ [r] }

/-- Free a pool record; when it is the save job's, the job becomes none (R67, R145). -/
def State.freeRecord (s : State) (p : PoolIx) : State :=
  (s.setRecord p none).setSaveJob (if s.saveJob = some p then none else s.saveJob)

/-- R77, Table 9-6: the completion frame of a record. -/
def completionFrame (r : Record) : Response where
  tag := r.tag
  status := r.status.getD .ok
  body := r.kind.code :: byteOf r.bytesDone ::
    (if r.kind = .read ∧ r.status = some .ok then r.data else [])

/-- R78, R79: the DONE-UNSEEN notice of a record. -/
def doneUnseenNotice (r : Record) : Notice where
  subject := match r.handle with
    | some h => h.subject
    | none => .handle 255 0
  detail := .doneUnseen r.tag (r.status.getD .ok) r.kind r.bytesDone

/-- R156: the REJECT frame. -/
def rejectFrame (count : Nat) (reason : RejectReason) : Response :=
  ⟨0, .reject, [byteOf count, reason.code]⟩

/-- R155: an available place goes to the oldest waiting completion, or else to the pending reject. One
place is given, since one is all that an event makes available: no completion waits on a link that a BREAK
has emptied (R113, R151; notes/assumptions/30.md). -/
def State.givePlace (s : State) (l : Link) : State :=
  if (s.link l).placeAvailable then
    match s.waitingDone l with
    | p :: rest =>
      match s.record p with
      | some r => ((s.pushOutbound l (completionFrame r)).setWaitingDone l rest).freeRecord p
      | none => s.setWaitingDone l rest
    | [] =>
      match (s.link l).pendingReject with
      | some (count, reason) =>
        let s := s.pushOutbound l (rejectFrame count reason)
        s.setLink l { s.link l with pendingReject := none }
      | none => s
  else s

/-- R155, R157: does the intake wait for a place? It has a frame to take and is not held. -/
def LinkUnit.intakeWaits (u : LinkUnit) : Bool := !u.requestQueue.isEmpty && u.restoreHold.isNone

/-- R155, R157: would an available place go to the intake, no completion and no reject waiting for it? -/
def State.intakeFirst (s : State) (l : Link) : Bool :=
  (s.link l).placeAvailable && (s.waitingDone l).isEmpty && (s.link l).pendingReject.isNone

/-- R155, R158: a frame has left the outbound queue, and its place goes to the first claimant that waits.
The intake keeps a place it is given so until it takes a frame: a completion or a reject that comes before
that finds the place gone (notes/assumptions/29.md). -/
def State.placeFreed (s : State) (l : Link) : State :=
  if s.intakeFirst l && (s.link l).intakeWaits then s.setLink l { s.link l with granted := true }
  else s.givePlace l

/-- R157: the owner's immediate answer goes into the place the intake found, which was kept for it. -/
def State.answer (s : State) (l : Link) (tag : Byte) (status : Status) (body : List Byte) : State :=
  s.setLink l { s.link l with
    outbound := (s.link l).outbound ++ [⟨tag, status, body⟩], reserved := false }

/-- R157: a request answered later leaves the place it found available. A completion or a reject that has
come to wait since the intake was given that place takes it (R155, R158). -/
def State.answerLater (s : State) (l : Link) : State :=
  (s.setLink l { s.link l with reserved := false }).givePlace l

/-- The answer to a request whose event also handed completions to the same link since its outbound
queue had `before` frames. The spec does not order them: the place of the answer among them is a free
value (notes/assumptions/9.md). -/
def State.answerAmong (s : State) (before : Nat) (l : Link) (tag : Byte) (status : Status)
    (body : List Byte) : State :=
  if (s.link l).outbound.length ≤ before then s.answer l tag status body
  else
    let q := (s.link l).outbound
    let k := before + Config.responsePlace s.freeCount % (q.length - before + 1)
    (s.setLink l { s.link l with
      outbound := q.take k ++ [⟨tag, status, body⟩] ++ q.drop k, reserved := false }).setFreeCount
        (s.freeCount + 1)

end Sys2Proof.Machine
end

