-- ==== Sys2Proof/Machine/Arbiter.lean ====
section
/-! DEFINITION. The grant arbiter (Section 2): holder sets, compatibility, wait queues and the grant
pass; with the lapse warning that falls due at a grant (R12, R38). -/

namespace Sys2Proof.Machine

/-- R27: the holder set of a target, each member with its mode. -/
def State.holders (s : State) (t : EntryIx) : List (SlotIx × Mode) :=
  slotIndices.filterMap fun i =>
    match (s.slot i).body.holding? with
    | some (t', m) => if t' = t then some (i, m) else none
    | none => none

/-- R34: compatibility of a SHARED or EXCLUSIVE request with the holder set. -/
def State.compatible (s : State) (t : EntryIx) : Mode → Bool
  | .shared => (s.holders t).all fun h => decide (h.2 = .shared)
  | .exclusive => (s.holders t).isEmpty

/-- R34, R36: the slot is the only member of the holder set. -/
def State.onlyHolder (s : State) (t : EntryIx) (i : SlotIx) : Bool :=
  decide ((s.holders t).map Prod.fst = [i])

/-- R35: the immediate-grant test at OPEN. -/
def State.grantableAtOnce (s : State) (t : EntryIx) (m : Mode) : Bool :=
  (s.entry t).waitQueue.isEmpty && s.compatible t m

/-- R32: a slot leaves the wait queue; those behind close up. -/
def State.leaveQueue (s : State) (t : EntryIx) (i : SlotIx) : State :=
  s.setWaitQueue t ((s.entry t).waitQueue.filter fun j => decide (j ≠ i))

/-- A WAITING or HELD slot on a target becomes FREE and leaves its wait queue, if it stands there. -/
def State.vacate (s : State) (i : SlotIx) (t : EntryIx) : State := (s.freeSlot i).leaveQueue t i

/-- Is the slot at the head of the wait queue? -/
def State.isHead (s : State) (t : EntryIx) (i : SlotIx) : Bool :=
  decide ((s.entry t).waitQueue.head? = some i)

/-- R30: the number of WAITING slots in the wait queue (the upgrade waiter not counted). -/
def State.waitingCount (s : State) (t : EntryIx) : Nat :=
  (s.entry t).waitQueue.countP fun i => decide ((s.slot i).body.stateName = .waiting)

/-- R28: the upgrade waiter at the head of the queue, if there is one. -/
def State.upgradeWaiter (s : State) (t : EntryIx) : Option SlotIx :=
  match (s.entry t).waitQueue with
  | i :: _ =>
    match (s.slot i).body with
    | .held h => if h.upgrade.isSome then some i else none
    | _ => none
  | [] => none

/-- R28: the EXCLUSIVE member of the holder set, if there is one. -/
def State.exclusiveHolder (s : State) (t : EntryIx) : Option SlotIx :=
  ((s.holders t).find? fun h => decide (h.2 = .exclusive)).map Prod.fst

/-- R12: the lapse warning of a slot, if it is due now: one LAPSING notice, and lapse warned. -/
def State.warnIfDue (s : State) (i : SlotIx) : State :=
  match (s.slot i).body with
  | .held h =>
    if h.lapseWarned = false ∧ 0 < s.warnMs h.target ∧ h.termDeadline - s.now ≤ s.warnMs h.target
    then
      (s.setBody i (.held { h with lapseWarned := true })).offerNotice h.owner
        ⟨s.slotSubject i, .lapsing ((h.termDeadline - s.now) / Config.unitMs)⟩
    else s
  | _ => s

/-- A HELD record as a grant sets it up at a time (R9, R38). -/
def grantedSlot (owner : Link) (t : EntryIx) (m : Mode) (term now : Nat) : HeldSlot :=
  ⟨owner, t, m, term, now + term, none, false, none⟩

/-- R38: the grant of a WAITING slot. -/
def State.grantWaiting (s : State) (i : SlotIx) (w : WaitingSlot) : State :=
  ((s.setBody i (.held (grantedSlot w.owner w.target w.mode w.requestedTerm s.now))).offerNotice
    w.owner ⟨s.slotSubject i, .granted w.mode false (w.requestedTerm / Config.unitMs)⟩).warnIfDue i

/-- R39: the grant of an upgrade waiter. -/
def State.grantUpgrade (s : State) (i : SlotIx) (h : HeldSlot) : State :=
  (s.setBody i (.held { h with mode := .exclusive, upgrade := none })).offerNotice h.owner
    ⟨s.slotSubject i, .granted .exclusive true ((h.termDeadline - s.now) / Config.unitMs)⟩

/-- R37.2: the slot at the head of a wait queue is granted if it is compatible with the holder set of
its target; none if it is not. -/
def State.grantHead (s : State) (i : SlotIx) : Option State :=
  match (s.slot i).body with
  | .waiting w => if s.compatible w.target w.mode then some (s.grantWaiting i w) else none
  | .held h => if h.upgrade.isSome ∧ s.onlyHolder h.target i then some (s.grantUpgrade i h) else none
  | .free => none
  | .ending _ => none

/-- R37: the grant pass, over the wait queue from its head. The test of the head does not look at the
queue, so the granted slot is taken from it first. -/
def grantLoop (t : EntryIx) : List SlotIx → State → State
  | [], s => s
  | i :: rest, s =>
    match (s.setWaitQueue t rest).grantHead i with
    | some s' => grantLoop t rest s'
    | none => s

/-- R37: the grant pass on a target. -/
def State.grantPass (s : State) (t : EntryIx) : State := grantLoop t (s.entry t).waitQueue s

/-- A pass that runs only where a condition holds (R40). -/
def State.grantPassIf (s : State) (c : Bool) (t : EntryIx) : State :=
  if c then s.grantPass t else s

end Sys2Proof.Machine
end

