-- ==== Sys2Proof/Machine/Transactions.lean ====
section
/-! DEFINITION. The transaction unit (Section 4): completion and its routing (R76 to R79), withdrawal
(R80), and the end of a lease with a transfer in flight (R14, R21, R23, R24). -/

namespace Sys2Proof.Machine

/-- What is in flight on a slot (R14): nothing, a QUEUED record, or an ACTIVE one. -/
inductive Flight where
  | none
  | queued (p : PoolIx)
  | active (p : PoolIx)
  deriving DecidableEq, Repr

/-- The flight of a slot's reference. -/
def State.flight (s : State) : Option PoolIx → Flight
  | none => .none
  | some p =>
    match s.record p with
    | some r =>
      match r.state with
      | .queued => .queued p
      | .active => .active p
      | .done => .none
    | none => .none

/-- Is the slot detached: ENDING with no owner (R4)? -/
def State.detached (s : State) (i : SlotIx) : Bool :=
  match (s.slot i).body with
  | .ending e => e.owner.isNone
  | _ => false

/-- R24: an ENDING slot becomes FREE and leaves the holder set; a RETIRING entry whose last slot it was
becomes ABSENT, and otherwise the grant pass runs. -/
def State.freeEnding (s : State) (i : SlotIx) (t : EntryIx) : State :=
  let s := s.freeSlot i
  match (s.entry t).body with
  | .retiring _ =>
    if s.targetInUse t then s.grantPass t else s.setEntry t { s.entry t with body := .absent }
  | _ => s.grantPass t

/-- R76.2: the slot named by a handle is told that its transaction has completed. -/
def State.clearFlight (s : State) (h : Handle) : State :=
  if (s.slot h.slot).generation = h.generation then
    match (s.slot h.slot).body with
    | .held hs => s.setBody h.slot (.held { hs with inFlight := none })
    | .ending e => s.freeEnding h.slot e.target
    | _ => s
  else s

/-- R77: a completion is offered to the outbound queue of its link. -/
def State.offerCompletion (s : State) (l : Link) (p : PoolIx) (r : Record) : State :=
  if (s.link l).placeAvailable && (s.waitingDone l).isEmpty then
    (s.pushOutbound l (completionFrame r)).freeRecord p
  else s.setWaitingDone l (s.waitingDone l ++ [p])

/-- R77 to R79: routing of a DONE record; `detached` says whether its slot was detached. -/
def State.route (s : State) (p : PoolIx) (r : Record) (detached : Bool) : State :=
  match r.destination with
  | none => s.freeRecord p
  | some l =>
    if detached then s.freeRecord p
    else
      match s.session l with
      | .opened _ => s.offerCompletion l p r
      | .suspended _ _ => (s.offerNotice l (doneUnseenNotice r)).freeRecord p
      | .closed => s.freeRecord p

/-- R75: the bytes done a completion carries: 0 for a STORE, and for a READ that is not OK. -/
def carriedBytes (kind : TxKind) (status : Status) (bytes : Nat) : Nat :=
  match kind with
  | .store => 0
  | .read => if status = .ok then bytes else 0
  | .write => bytes

/-- R66, R76.1: a record as it becomes DONE. -/
def Record.completed (r : Record) (status : Status) (bytes : Nat) : Record :=
  { r with state := .done, status := some status, bytesDone := carriedBytes r.kind status bytes }

/-- R76: a record completes. -/
def State.complete (s : State) (p : PoolIx) (status : Status) (bytes : Nat) : State :=
  match s.record p with
  | none => s
  | some r =>
    let r' := r.completed status bytes
    let s' := s.setRecord p (some r')
    match r.handle with
    | some h => (s'.clearFlight h).route p r' (s.detached h.slot)
    | none => s'.route p r' false

/-- R68: a record leaves its bus queue from wherever it stands. -/
def State.leaveBusQueue (s : State) (b : BusIx) (p : PoolIx) : State :=
  s.setBusQueue b ((s.busQueue b).filter fun q => decide (q ≠ p))

/-- R80: a QUEUED record is withdrawn and completes with bytes done 0. -/
def State.withdraw (s : State) (p : PoolIx) (status : Status) : State :=
  match s.record p with
  | none => s
  | some r => (s.leaveBusQueue r.bus p).complete p status 0

/-- R73: the stop request of a record. -/
def State.requestStop (s : State) (p : PoolIx) : State :=
  match s.record p with
  | none => s
  | some r => s.setRecord p (some { r with stopRequested := true })

/-- R23: a HELD slot with an ACTIVE record becomes ENDING and its pending upgrade is dropped; the grant
pass for a dropped upgrade is left to the caller (R41). -/
def State.becomeEnding (s : State) (i : SlotIx) (h : HeldSlot) (p : PoolIx) (owner : Option Link)
    (cause : EndCause) : State :=
  ((s.setBody i (.ending ⟨owner, h.target, h.mode, h.inFlight, cause⟩)).leaveQueue h.target
    i).requestStop p

/-- The statuses and causes of the two ways a single lease is ended: expiry (R14) and revocation (R21). -/
structure LeaseEnd where
  status : Status
  cause : EndCause
  detail : SlotState → Detail

/-- R14. -/
def lapseEnd : LeaseEnd := ⟨.lapsed, .lapsed, .lapsed⟩
/-- R21. -/
def revokeEnd : LeaseEnd := ⟨.revoked, .revoked, .revoked .supervisor⟩
/-- R59. -/
def dropEnd : LeaseEnd := ⟨.revoked, .dropped, .revoked .dropped⟩

/-- The state in which ending a HELD lease leaves its slot (R14, R21). -/
def State.leftBy (s : State) (h : HeldSlot) : SlotState :=
  match s.flight h.inFlight with
  | .active _ => .ending
  | _ => .free

/-- R14, R21, R59: a HELD lease ends, up to the grant pass: withdrawal of a QUEUED record, the slot
FREE or ENDING, and the notice. -/
def State.endLease (s : State) (i : SlotIx) (h : HeldSlot) (e : LeaseEnd) : State :=
  let subject := s.slotSubject i
  match s.flight h.inFlight with
  | .none => (s.vacate i h.target).offerNotice h.owner ⟨subject, e.detail .free⟩
  | .queued p =>
    ((s.withdraw p e.status).vacate i h.target).offerNotice h.owner ⟨subject, e.detail .free⟩
  | .active p =>
    (s.becomeEnding i h p (some h.owner) e.cause).offerNotice h.owner ⟨subject, e.detail .ending⟩

/-- R40: does ending this HELD lease run the grant pass? -/
def State.endRunsPass (s : State) (h : HeldSlot) : Bool :=
  match s.flight h.inFlight with
  | .active _ => h.upgrade.isSome
  | _ => true

/-- R14, R21: a HELD lease ends, and the grant pass runs where R40 calls for it. -/
def State.endLeaseAndPass (s : State) (i : SlotIx) (h : HeldSlot) (e : LeaseEnd) : State :=
  (s.endLease i h e).grantPassIf (s.endRunsPass h) h.target

/-- R70, R143: the free record taken is the lowest-numbered one; no host can tell (R66,
notes/assumptions/8.md). -/
def State.freeRecord? (s : State) : Option PoolIx :=
  poolIndices.find? fun p => (s.record p).isNone

/-- R69.6, R143.3: room in the pool and in the bus queue, with the record to take. -/
def State.roomFor (s : State) (b : BusIx) : Option PoolIx :=
  if (s.busQueue b).length < Config.busQueueDepth then s.freeRecord? else none

/-- R70, R143: a new record is QUEUED at the tail of its bus queue. -/
def State.enqueue (s : State) (p : PoolIx) (r : Record) : State :=
  (s.setRecord p (some r)).setBusQueue r.bus (s.busQueue r.bus ++ [p])

end Sys2Proof.Machine
end

