-- ==== Sys2Proof/Machine/Teardown.lean ====
section
/-! DEFINITION. Session teardown (R116, R117, R81), suspension (R113) and the link going DOWN (R151). -/

namespace Sys2Proof.Machine

/-- R117, Table 6-2: one slot of the ending session. -/
def State.tearSlot (l : Link) (s : State) (i : SlotIx) : State :=
  match (s.slot i).body with
  | .free => s
  | .waiting w => if w.owner = l then s.vacate i w.target else s
  | .held h =>
    if h.owner = l then
      match s.flight h.inFlight with
      | .active p => s.becomeEnding i h p none .session
      | _ => s.vacate i h.target
    else s
  | .ending e =>
    if e.owner = some l then s.setBody i (.ending { e with owner := none }) else s

/-- R40, R117: does the teardown's change to this slot call for a grant pass on its target? -/
def State.tearRunsPass (s : State) (l : Link) (t : EntryIx) (i : SlotIx) : Bool :=
  match (s.slot i).body with
  | .waiting w => decide (w.owner = l ∧ w.target = t) && s.isHead t i
  | .held h => decide (h.owner = l ∧ h.target = t) && s.endRunsPass h
  | _ => false

/-- R116.2: the targets on which the teardown runs the grant pass, in ascending order (R126). -/
def State.tearTargets (s : State) (l : Link) : List EntryIx :=
  entryIndices.filter fun t => slotIndices.any fun i => s.tearRunsPass l t i

/-- R81: the transaction in flight of the slot named by a handle is cleared. -/
def State.dropFlight (s : State) (h : Handle) : State :=
  if (s.slot h.slot).generation = h.generation then
    match (s.slot h.slot).body with
    | .held hs => s.setBody h.slot (.held { hs with inFlight := none })
    | _ => s
  else s

/-- R81: a QUEUED READ or WRITE of the ending session leaves its bus queue and is freed at once. -/
def State.discardQueued (s : State) (p : PoolIx) (r : Record) : State :=
  let s := (s.leaveBusQueue r.bus p).freeRecord p
  match r.handle with
  | some h => s.dropFlight h
  | none => s

/-- R81: one record of the ending session. -/
def State.tearRecord (l : Link) (s : State) (p : PoolIx) : State :=
  match s.record p with
  | none => s
  | some r =>
    if r.destination = some l then
      match r.state with
      | .done => s.freeRecord p
      | .active => s.setRecord p (some { r with destination := none })
      | .queued =>
        if r.kind = .store then s.setRecord p (some { r with destination := none })
        else s.discardQueued p r
    else s

/-- R116, steps 1 and 2: records, slots and grant passes. -/
def State.tearHoldings (s : State) (l : Link) : State :=
  let targets := s.tearTargets l
  let s := poolIndices.foldl (State.tearRecord l) (s.setWaitingDone l [])
  targets.foldl State.grantPass (slotIndices.foldl (State.tearSlot l) s)

/-- R116: the session of a link ends, by whatever cause. -/
def State.teardown (s : State) (l : Link) : State :=
  ((s.tearHoldings l).clearNotices l).putSession l .closed

/-- R78: a waiting DONE record becomes a DONE-UNSEEN notice of the session and is freed. -/
def State.convertDone (l : Link) (s : State) (p : PoolIx) : State :=
  match s.record p with
  | none => s
  | some r => (s.offerNotice l (doneUnseenNotice r)).freeRecord p

/-- R113, first case: the session becomes SUSPENDED and its waiting completions become notices. -/
def State.suspend (s : State) (l : Link) (key : Nat) : State :=
  let s := s.putSession l (.suspended key (s.now + (s.rightsOf l).grace * Config.unitMs))
  let waiting := s.waitingDone l
  waiting.foldl (State.convertDone l) (s.setWaitingDone l [])

/-- R151: the link unit as going DOWN leaves it; the intake's hold for a BUS-RESTORE stays. -/
def LinkUnit.goDown (u : LinkUnit) (now : Nat) : LinkUnit :=
  { u with line := .down, idleFrom := now, framer := .hunt, requestQueue := [], hold := false,
           outbound := [], sending := none, reserved := false, granted := false,
           pendingReject := none }

/-- R147, R149: is the teardown of this link's session, set in train by a RESTART, still to come? -/
def State.tearsDown (s : State) (l : Link) : Bool :=
  match s.restart with
  | some job => job.teardowns.contains l
  | none => false

/-- R147, R149: the teardown of an OPEN session that a RESTART has set in train, if it is still to come when
the link of the session goes DOWN. R147 lets the teardowns be taken in any order; that this one is taken
here, before the link goes DOWN, is the model's reading (notes/assumptions/30.md). -/
def State.tearsFirst (s : State) (l : Link) : State :=
  if s.tearsDown l && (s.session l).isOpen then s.teardown l else s

/-- R113: what a link going DOWN does to the session of the link. -/
def State.sessionLosesLine (s : State) (l : Link) : State :=
  match s.session l with
  | .opened key => if 0 < (s.rightsOf l).grace then s.suspend l key else s.teardown l
  | _ => s

/-- R151, R113, R149: a link goes DOWN: its session and its unit change in the one event. During a drain
the link going DOWN finds no OPEN session, and changes none (R149). -/
def State.linkDown (s : State) (l : Link) : State :=
  let s := (s.tearsFirst l).sessionLosesLine l
  s.setLink l ((s.link l).goDown s.now)

end Sys2Proof.Machine
end

