-- ==== Sys2Proof/Machine/Engines.lean ====
section
/-! DEFINITION. The bus engines: what they send (R71, R72, R91), the line check (R89), segments and
their boundaries (R72, R144). -/

namespace Sys2Proof.Machine

/-! ### Elements of the operations (R71, R91, R93) -/

/-- R91: the address byte; direction 0 for write, 1 for read. -/
def addressByte (address direction : Nat) : Byte := byteOf (address * 2 + direction)

/-- R71: the offset phase, most significant byte first. -/
def offsetBytes (width offset : Nat) : List Byte :=
  match width with
  | 0 => []
  | 1 => [byteOf offset]
  | _ => wordBytes offset

/-- R93: data bytes received, each acknowledged but the last. -/
def receives : Nat → List BusElement
  | 0 => []
  | 1 => [.receive false]
  | n + 2 => .receive true :: receives (n + 1)

/-- R71, R94: a read operation. -/
def readPlan (sn : Snapshot) (offset count : Nat) : BusPlan where
  speed := sn.speed
  elements :=
    if sn.offsetWidth = 0 then
      [.start, .send (addressByte sn.address 1)] ++ receives count ++ [.stop]
    else
      [.start, .send (addressByte sn.address 0)]
        ++ (offsetBytes sn.offsetWidth offset).map BusElement.send
        ++ [.repeatedStart, .send (addressByte sn.address 1)] ++ receives count ++ [.stop]

/-- R72, R95: a write segment. -/
def writePlan (sn : Snapshot) (offset : Nat) (data : List Byte) : BusPlan where
  speed := sn.speed
  elements :=
    [.start, .send (addressByte sn.address 0)]
      ++ (offsetBytes sn.offsetWidth offset).map BusElement.send
      ++ data.map BusElement.send ++ [.stop]

/-- R97: an attempt of a busy poll. -/
def pollPlan (sn : Snapshot) : BusPlan :=
  ⟨sn.speed, [.start, .send (addressByte sn.address 0), .stop]⟩

/-- R137: the geometry of the catalogue store. -/
def storeSnapshot : Snapshot := ⟨Config.storeAddress, 1, 2, 32, 20, 3⟩

/-! ### Segments (R72, R144) -/

/-- The offset just past the data that the current phase of a record writes. -/
def Record.phaseEnd (r : Record) : Nat :=
  match r.phase with
  | none => r.offset + r.count
  | some .invalidate => 2
  | some .body => r.count
  | some .sign => 2

/-- R72: the offset just past the current segment. -/
def Record.segmentEnd (r : Record) : Nat :=
  if r.snapshot.offsetWidth = 0 then r.phaseEnd
  else min ((r.nextStart / r.snapshot.pageSize + 1) * r.snapshot.pageSize) r.phaseEnd

/-- The number of data bytes of the current segment. -/
def Record.segmentLength (r : Record) : Nat := r.segmentEnd - r.nextStart

/-- The data bytes of the current segment; a STORE's come from the image buffer (R143, R144). -/
def Record.segmentData (r : Record) (image : List Byte) : List Byte :=
  match r.phase with
  | none => (r.data.drop (r.nextStart - r.offset)).take r.segmentLength
  | some .invalidate => [0, 0]
  | some .body => (image.drop r.nextStart).take r.segmentLength
  | some .sign => signature

/-- R72, R144: the record advanced to its next segment; none when the last one is complete. -/
def Record.nextSegment (r : Record) : Option Record :=
  if r.segmentEnd < r.phaseEnd then some { r with nextStart := r.segmentEnd }
  else
    match r.phase with
    | some .invalidate => some { r with phase := some .body, nextStart := 2 }
    | some .body => some { r with phase := some .sign, nextStart := 0 }
    | some .sign => none
    | none => none

/-- Bytes done are raised for a WRITE alone (R72, R93, R145). -/
def Record.raised (r : Record) (n : Nat) : Record :=
  if r.kind = .write then { r with bytesDone := r.bytesDone + n } else r

/-! ### Attempts and the line check -/

/-- R139: the offset and count of a load operation. R139.5 reads a body and its CRC by operations of at
most 64 bytes each; that each but the last reads exactly 64 is the model's choice (notes/assumptions/32.md). -/
def LoadStage.extent : LoadStage → Nat × Nat
  | .signature => (0, 2)
  | .header offset => (offset, 2)
  | .lastByte => (Config.storeCapacity - 1, 1)
  | .body offset len got => (offset + 2 + got, min Config.loadChunk (len + 2 - got))

/-- The operation of a record: its read, or its current write segment. -/
def Record.operationPlan (r : Record) (image : List Byte) : BusPlan :=
  match r.kind with
  | .read => readPlan r.snapshot r.offset r.count
  | _ => writePlan r.snapshot r.nextStart (r.segmentData image)

/-- What the engine of a bus does on it for an attempt at its work. -/
def State.planFor (s : State) (b : BusIx) (a : Attempt) : BusPlan :=
  match (s.engine b).work with
  | .record p =>
    match s.record p with
    | some r =>
      match a with
      | .operation => r.operationPlan s.imageBuffer
      | .poll _ => pollPlan r.snapshot
    | none => ⟨0, []⟩
  | .load =>
    match s.load with
    | some j => readPlan storeSnapshot j.stage.extent.1 j.stage.extent.2
    | none => ⟨0, []⟩
  | _ => ⟨0, []⟩

/-- Write the state of an engine. -/
def State.setEngineState (s : State) (b : BusIx) (x : EngineState) : State :=
  s.setEngine b { s.engine b with state := x }

/-- The engine issues the start condition of an attempt. -/
def State.beginAttempt (s : State) (b : BusIx) (a : Attempt) : State :=
  s.setEngineState b (.active (.onBus a (s.planFor b a)))

/-- R89: the line check before a start condition, with the levels it finds. -/
def State.lineCheck (s : State) (b : BusIx) (a : Attempt) (lines : LineLevels) : State :=
  match lines with
  | .bothHigh => s.beginAttempt b a
  | .dataLow => s.setEngineState b (.recovering (.lineCheck a))
  | .clockLow => s.setEngineState b (.active (.lineWait a))

/-- An operation begins: retries used 0, then the line check (R88, R89, R96). -/
def State.beginOperation (s : State) (b : BusIx) (lines : LineLevels) : State :=
  (s.setEngine b { s.engine b with retriesUsed := 0 }).lineCheck b .operation lines

/-- The attempt an engine has under way, with its plan: on the bus, or in a line check whose clock has
risen since with the data line high (notes/assumptions/6.md). -/
def State.underway (s : State) (b : BusIx) : Option (Attempt × BusPlan) :=
  match (s.engine b).state with
  | .active (.onBus a plan) => some (a, plan)
  | .active (.lineWait a) => some (a, s.planFor b a)
  | _ => none

/-- Record what the engine gave on its bus. -/
def State.setGiven (s : State) (b : BusIx) (plan : BusPlan) : State :=
  s.setEngine b { s.engine b with given := plan }

/-- R91, R94, R95, R97: what came of the attempt under way, by the levels read, with the state that
records what was given on the bus. None where no attempt is under way, or where the levels are not those
of one course of it (notes/assumptions/20.md). -/
def State.attemptRun (s : State) (b : BusIx) (readings : List Bool) :
    Option (Attempt × BusRun × State) :=
  match s.underway b with
  | none => none
  | some (a, plan) =>
    match runElements plan.elements readings with
    | none => none
    | some run => some (a, run, s.setGiven b ⟨plan.speed, run.given⟩)

/-- R93: the data bytes among a write segment's bytes acknowledged, its address byte and its offset bytes
taken off. -/
def Record.dataAcknowledged (r : Record) (acknowledged : Nat) : Nat :=
  acknowledged - (1 + r.snapshot.offsetWidth)

/-- R98: the engine's work has ended on the bus; it is IDLE with no work. R87 gives retries used for the
operation in progress only: with none in progress the count of the last one stays
(notes/assumptions/26.md). -/
def State.engineIdle (s : State) (b : BusIx) : State :=
  s.setEngine b { s.engine b with state := .idle, work := .none }

end Sys2Proof.Machine
end

