-- ==== Sys2Proof/Machine/Loader.lean ====
section
/-! DEFINITION. The start-up unit: the image load (R137 to R142), the image a save builds (R143), and
the end of a restart (R148). -/

namespace Sys2Proof.Machine

/-! ### The catalogue -/

/-- R52: does another entry that is PRESENT or RETIRING have this bus and address? -/
def State.clashes (s : State) (t : EntryIx) (f : TargetFields) : Bool :=
  entryIndices.any fun u =>
    decide (u ≠ t) &&
      match (s.entry u).body.fields? with
      | some g => g.bus == f.bus && g.address == f.address
      | none => false

/-- R51: the entry becomes PRESENT with these fields and an empty wait queue. -/
def State.makePresent (s : State) (t : EntryIx) (f : TargetFields) : State :=
  s.setEntry t ⟨.present f, []⟩

/-- R148: the catalogue is emptied and every rights record takes its default. -/
def State.emptyCatalogue (s : State) : State :=
  { s with entries := Vector.replicate 32 ⟨.absent, []⟩, rights := allDefaultRights s.supervisor }

/-! ### Blocks of the image (R140) -/

/-- An entry index carried by a byte. -/
def entryOf (b : Byte) : Option EntryIx := if h : b.toNat < 32 then some ⟨b.toNat, h⟩ else none
/-- A link carried by a byte. -/
def linkOf (b : Byte) : Option Link := if h : b.toNat < 4 then some ⟨b.toNat, h⟩ else none
/-- A bus carried by a byte. -/
def busOf (b : Byte) : Option BusIx := if h : b.toNat < 2 then some ⟨b.toNat, h⟩ else none
/-- A slot carried by a byte. -/
def slotOf (b : Byte) : Option SlotIx := if h : b.toNat < 48 then some ⟨b.toNat, h⟩ else none

/-- What the tests of R140 find in a block. -/
inductive BlockVerdict where
  | defect (reason : DefectReason)
  | target (t : EntryIx) (f : TargetFields)
  | rights (l : Link) (r : Rights)
  deriving DecidableEq, Repr

/-- R140, tests 3 to 5, for a TARGET body at place 2 of the block. -/
def State.judgeTarget (s : State) (j : LoadJob) (block : List Byte) : BlockVerdict :=
  match entryOf (byteAt block 2) with
  | none => .defect .invalid
  | some t =>
    let f := fieldsAt block 3
    if !f.valid then .defect .invalid
    else if j.targets.contains t then .defect .duplicate
    else if s.clashes t f then .defect .invalid
    else .target t f

/-- R140, tests 3 and 4, for a RIGHTS body at place 2 of the block. -/
def judgeRights (j : LoadJob) (block : List Byte) : BlockVerdict :=
  match linkOf (byteAt block 2) with
  | none => .defect .invalid
  | some l =>
    let r := rightsAt block 3
    if !r.valid then .defect .invalid
    else if j.rights.contains l then .defect .duplicate
    else .rights l r

/-- R140: the first test that applies to a block read whole (kind, length, body and CRC). -/
def State.judgeBlock (s : State) (j : LoadJob) (block : List Byte) : BlockVerdict :=
  let core := block.take (block.length - 2)
  if block.drop (block.length - 2) ≠ crcBytes core then .defect .badcheck
  else if byteAt block 0 = 0x01 ∧ byteAt block 1 = 15 then s.judgeTarget j block
  else if byteAt block 0 = 0x02 ∧ byteAt block 1 = 6 then judgeRights j block
  else .defect .unknown

/-- R140: one more defect, the first recorded with its block offset. -/
def Report.addDefect (r : Report) (offset : Nat) (reason : DefectReason) : Report :=
  { r with
    defects := min (r.defects + 1) 255
    firstOffset := if r.defects = 0 then offset else r.firstOffset
    firstReason := if r.defects = 0 then reason else r.firstReason }

/-- R140: a block read whole at an offset is classified; an accepted one enters the catalogue. -/
def State.classifyBlock (s : State) (j : LoadJob) (offset : Nat) (block : List Byte) : State :=
  match s.judgeBlock j block with
  | .defect reason => s.setReport (s.report.addDefect offset reason)
  | .target t f =>
    ((s.makePresent t f).setLoad (some { j with targets := t :: j.targets })).setReport
      { s.report with targets := s.report.targets + 1 }
  | .rights l r =>
    ((s.setRights l r).setLoad (some { j with rights := l :: j.rights })).setReport
      { s.report with rights := s.report.rights + 1 }

/-! ### The load -/

/-- R141: the load ends with an outcome and the part becomes READY. -/
def State.endLoad (s : State) (outcome : LoadOutcome) : State :=
  ((s.setReport { s.report with outcome := outcome }).setLoad none).setPart .ready

/-- R141: the load ends at END. -/
def State.endAtEnd (s : State) : State :=
  s.endLoad (if s.report.defects = 0 then .loaded else .loadedWithDefects)

/-- How a load operation failed (R98). -/
inductive LoadFailure where
  | noack | timeout | busFault
  deriving DecidableEq, Repr

/-- R138, R139: a load operation ended other than OK. -/
def State.loadFailed (s : State) (why : LoadFailure) : State :=
  match s.load with
  | none => s
  | some j =>
    match j.stage with
    | .signature => s.endLoad (if why = .busFault then .busFault else .noStore)
    | _ => s.endLoad .partialLoad

/-- R88: the B0 engine takes the load operation handed to it when it is IDLE, and refuses it at once
with BUS-FAULT when it is in FAULT. -/
def State.takeLoadOperation (s : State) (lines : LineLevels) : State :=
  match (s.engine 0).state with
  | .idle => (s.setEngine 0 { s.engine 0 with work := .load }).beginOperation 0 lines
  | .fault => s.loadFailed .busFault
  | _ => s

/-- The next load operation is handed to B0. -/
def State.handLoadOperation (s : State) (stage : LoadStage) (lines : LineLevels) : State :=
  match s.load with
  | none => s
  | some j => (s.setLoad (some { j with stage := stage })).takeLoadOperation lines

/-- R139, steps 1 to 3: the loader goes to the block at an offset. -/
def State.nextBlock (s : State) (offset : Nat) (lines : LineLevels) : State :=
  if Config.storeCapacity ≤ offset then s.endLoad .partialLoad
  else if offset = Config.storeCapacity - 1 then s.handLoadOperation .lastByte lines
  else s.handLoadOperation (.header offset) lines

/-- R139, steps 3 and 4: a block header has been read. -/
def State.headerRead (s : State) (offset : Nat) (data : List Byte) (lines : LineLevels) : State :=
  let len := (byteAt data 1).toNat
  if byteAt data 0 = 0 then s.endAtEnd
  else if Config.storeCapacity < offset + len + 4 then s.endLoad .partialLoad
  else (s.setImage data).handLoadOperation (.body offset len 0) lines

/-- R139, steps 5 and 6: part of a block's body and CRC has been read. -/
def State.bodyRead (s : State) (j : LoadJob) (offset len got : Nat) (data : List Byte)
    (lines : LineLevels) : State :=
  let s := s.setImage (s.imageBuffer ++ data)
  if got + data.length < len + 2 then
    s.handLoadOperation (.body offset len (got + data.length)) lines
  else (s.classifyBlock j offset s.imageBuffer).nextBlock (offset + len + 4) lines

/-- R138, R139: a load operation has ended OK with its data; the B0 engine is IDLE. -/
def State.loadAdvance (s : State) (data : List Byte) (lines : LineLevels) : State :=
  match s.load with
  | none => s
  | some j =>
    match j.stage with
    | .signature => if data = signature then s.nextBlock 2 lines else s.endLoad .noSignature
    | .lastByte => if byteAt data 0 = 0 then s.endAtEnd else s.endLoad .partialLoad
    | .header offset => s.headerRead offset data lines
    | .body offset len got => s.bodyRead j offset len got data lines

/-- R142, R138: a load begins. -/
def State.beginLoad (s : State) (lines : LineLevels) : State :=
  ((s.setReport emptyReport).setLoad (some firstLoad)).takeLoadOperation lines

/-! ### The drain (R148) -/

/-- R148: every slot is FREE and every pool record is free. -/
def State.allFree (s : State) : Bool :=
  (slotIndices.all fun i => decide ((s.slot i).body = .free)) &&
    (poolIndices.all fun p => (s.record p).isNone)

/-- R148: when the drain is complete, the restart acts by its scope. -/
def State.checkDrain (s : State) (lines : LineLevels) : State :=
  match s.restart with
  | some ⟨scope, []⟩ =>
    if s.allFree then
      match scope with
      | .keep => (s.setRestart none).setPart .ready
      | .reload => ((s.setRestart none).emptyCatalogue).beginLoad lines
    else s
  | _ => s

/-! ### The image of a save (R143) -/

/-- R143: the TARGET block of an entry, for a PRESENT one. -/
def State.savedTarget (s : State) (t : EntryIx) : List Byte :=
  match (s.entry t).body with
  | .present f => targetBlock t f
  | _ => []

/-- R143: the image of the catalogue as it stands. -/
def State.buildImage (s : State) : List Byte :=
  signature ++ entryIndices.flatMap s.savedTarget
    ++ linkIndices.flatMap (fun l => rightsBlock l (s.rightsOf l)) ++ [0]

/-- R143: the STORE record of a save. -/
def storeRecord (l : Link) (tag : Byte) (length : Nat) : Record where
  kind := .store
  state := .queued
  link := l
  tag := tag
  destination := some l
  handle := none
  bus := 0
  snapshot := storeSnapshot
  offset := 0
  count := length
  data := []
  nextStart := 0
  bytesDone := 0
  stopRequested := false
  status := none
  phase := some .invalidate

end Sys2Proof.Machine
end

