-- ==== Sys2Proof/Machine/Endings.lean ====
section
/-! DEFINITION. How an engine's work ends: completion of a record (R98), retries (R96), segment
boundaries (R74), the busy poll (R97), and the entry into FAULT (R99, R100, R82). -/

namespace Sys2Proof.Machine

/-- R98: the engine is IDLE, the record completes, and the drain is looked at (R148). -/
def State.endRecord (s : State) (b : BusIx) (p : PoolIx) (status : Status) (bytes : Nat)
    (lines : LineLevels) : State :=
  ((s.engineIdle b).complete p status bytes).checkDrain lines

/-- R96: an attempt was not acknowledged: a retry after 1 ms, or none where the limit is reached. -/
def State.retry? (s : State) (b : BusIx) (limit : Nat) : Option State :=
  if (s.engine b).retriesUsed < limit then
    some (s.setEngine b { s.engine b with
      retriesUsed := (s.engine b).retriesUsed + 1
      state := .active (.retryWait (s.now + Config.retryWait)) })
  else none

/-- R96 for a record: a retry, or completion NOACK. -/
def State.retryRecord (s : State) (b : BusIx) (p : PoolIx) (r : Record) (lines : LineLevels) : State :=
  match s.retry? b r.snapshot.retryLimit with
  | some s' => s'
  | none => s.endRecord b p .noack r.bytesDone lines

/-- R72, R74: a segment boundary: next start moves past the segment, and a stop request is looked at. -/
def State.segmentBoundary (s : State) (b : BusIx) (p : PoolIx) (r : Record) (lines : LineLevels) :
    State :=
  match r.nextSegment with
  | none => s.endRecord b p .ok r.count lines
  | some r' =>
    let s := s.setRecord p (some r')
    if r.kind = .write ∧ r.stopRequested = true then s.endRecord b p .cut r.bytesDone lines
    else s.beginOperation b lines

/-- R95: the data phase of a segment is complete with every byte acknowledged. -/
def State.segmentSent (s : State) (b : BusIx) (p : PoolIx) (r : Record) (lines : LineLevels) : State :=
  let r := r.raised r.segmentLength
  let s := s.setRecord p (some r)
  if 0 < r.snapshot.pollLimit then s.lineCheck b (.poll s.now) lines
  else s.segmentBoundary b p r lines

/-- R97.3: a poll attempt was not acknowledged. -/
def State.pollRefused (s : State) (b : BusIx) (p : PoolIx) (r : Record) (began : Nat)
    (lines : LineLevels) : State :=
  if s.now - began < r.snapshot.pollLimit then
    s.setEngineState b (.active (.pollWait (s.now + Config.retryWait) began))
  else s.endRecord b p .busytimeout r.bytesDone lines

/-! ### FAULT -/

/-- R100, R103: does the session of a link own a WAITING or HELD slot on a target of the bus? -/
def State.concernedBy (s : State) (b : BusIx) (l : Link) : Bool :=
  !(s.session l).isClosed &&
    slotIndices.any fun i =>
      let onBus (t : EntryIx) : Bool :=
        match (s.entry t).body.fields? with
        | some f => decide (f.busIx = b)
        | none => false
      match (s.slot i).body with
      | .waiting w => decide (w.owner = l) && onBus w.target
      | .held h => decide (h.owner = l) && onBus h.target
      | _ => false

/-- R100, R103: the sessions that a BUS-FAULT or BUS-RESTORED notice goes to. -/
def State.concernedSessions (s : State) (b : BusIx) : List Link :=
  linkIndices.filter fun l => s.concernedBy b l

/-- One notice about a bus to each session of a list. -/
def State.busNotices (s : State) (b : BusIx) (d : Detail) (ls : List Link) : State :=
  ls.foldl (fun s l => s.offerNotice l ⟨.bus b, d⟩) s

/-- The engine stands in FAULT with a reason and no work, and its bus queue is empty. Retries used, of no
operation now, stays (notes/assumptions/26.md). -/
def State.setFault (s : State) (b : BusIx) (reason : FaultReason) : State :=
  (s.setEngine b { s.engine b with state := .fault, lastFault := reason, work := .none }).setBusQueue
    b []

/-- R82: the records that were QUEUED on a faulted bus complete BUSFAULT, head first. -/
def State.failQueue (s : State) (queued : List PoolIx) : State :=
  queued.foldl (fun s p => s.complete p .busfault 0) s

/-- R99.2: the active work of an engine ends at an entry into FAULT; an ACTIVE record with a status. -/
def State.failWork (s : State) (w : Work) (status : Status) : State :=
  match w with
  | .record p =>
    match s.record p with
    | some r => s.complete p status r.bytesDone
    | none => s
  | .load => s.loadFailed .busFault
  | .restore => s
  | .none => s

/-- R99: the engine enters FAULT with a reason; its ACTIVE record completes with a status. -/
def State.enterFault (s : State) (b : BusIx) (reason : FaultReason) (status : Status)
    (lines : LineLevels) : State :=
  let work := (s.engine b).work
  let queued := s.busQueue b
  let concerned := s.concernedSessions b
  let s := ((s.setFault b reason).failWork work status).failQueue queued
  (s.busNotices b (.busFault reason) concerned).checkDrain lines

/-- The last-fault reason of a failed recovery (R90): on the clock or on the data line. -/
def recoveryReason : RecoveryResult → FaultReason
  | .clockFailed => .stuckClock
  | .dataFailed => .stuckData
  | .success => .none

/-! ### The end of a restore (R103) -/

/-- The link whose intake is held for the restore of a bus, with the tag of its request. -/
def State.restoreHolder (s : State) (b : BusIx) : Option (Link × Byte) :=
  linkIndices.findSome? fun l =>
    match (s.link l).restoreHold with
    | some (b', tag) => if b' = b then some (l, tag) else none
    | none => none

/-- R103: the response of a restore goes into its reserved place, or is discarded where that place was
lost with the link; the intake is released. `before` is the length of the outbound queue before the
event's completions. -/
def State.answerRestore (s : State) (b : BusIx) (before : Link → Nat) (status : Status)
    (body : List Byte) : State :=
  match s.restoreHolder b with
  | none => s
  | some (l, tag) =>
    let reserved := (s.link l).reserved
    let s := s.setLink l { s.link l with restoreHold := none }
    if reserved then s.answerAmong (before l) l tag status body else s

/-- R103: the recovery run for BUS-RESTORE ends. -/
def State.restoreEnds (s : State) (b : BusIx) (r : RecoveryResult) : State :=
  let before := fun l => (s.link l).outbound.length
  match r with
  | .success =>
    let s := (s.engineIdle b).answerRestore b before .ok []
    s.busNotices b .busRestored (s.concernedSessions b)
  | _ =>
    let queued := s.busQueue b
    ((s.setFault b (recoveryReason r)).failQueue queued).answerRestore b before .failed
      [(recoveryReason r).code]

/-! ### The end of a recovery within a transaction (R89, R92) -/

/-- R92.3, R92.4: the recovery after a stretch fault succeeded. -/
def State.stretchRecovered (s : State) (b : BusIx) (lines : LineLevels) : State :=
  match (s.engine b).work with
  | .record p =>
    match s.record p with
    | some r => s.endRecord b p .timeout r.bytesDone lines
    | none => s.engineIdle b
  | .load => (s.engineIdle b).loadFailed .timeout
  | _ => s.engineIdle b

end Sys2Proof.Machine
end

