-- ==== Sys2Proof/Machine/Operands.lean ====
section
/-! DEFINITION. The arguments of requests: the handle checks of R3, the terms of R7 and the rights
check of R55. -/

namespace Sys2Proof.Machine

/-- What the handle checks of R3 leave (tests 1 and 2): a refusal, or a slot of the requesting session. -/
inductive HandleCheck where
  | refused (status : Status)
  | waiting (i : SlotIx) (w : WaitingSlot)
  | held (i : SlotIx) (h : HeldSlot)
  deriving DecidableEq, Repr

/-- R3, tests 1 and 2, for a slot of the table. -/
def State.checkSlot (s : State) (l : Link) (i : SlotIx) (generation : Nat) : HandleCheck :=
  if (s.slot i).generation = generation then
    match (s.slot i).body with
    | .free => .refused .stale
    | .waiting w => if w.owner = l then .waiting i w else .refused .stale
    | .held h => if h.owner = l then .held i h else .refused .stale
    | .ending e => if e.owner = some l then .refused .ended else .refused .stale
  else .refused .stale

/-- R3, tests 1 and 2, for the handle in the first three bytes of a body. -/
def State.checkHandle (s : State) (l : Link) (body : List Byte) : HandleCheck :=
  match slotOf (byteAt body 0) with
  | none => .refused .stale
  | some i => s.checkSlot l i (wordAt body 1)

/-- R7: the requested term for a target, in ms, from a term in units of 10 ms. -/
def requestedTerm (f : TargetFields) (units : Nat) : Nat :=
  (if units = 0 then f.defaultTerm else min units f.maxTerm) * Config.unitMs

/-- R7: the requested term against the entry of a slot; 0 where the entry has no fields. -/
def State.requestedTermFor (s : State) (t : EntryIx) (units : Nat) : Nat :=
  match (s.entry t).body.fields? with
  | some f => requestedTerm f units
  | none => 0

/-- R55: the rights record of a link permits a mode for a class. -/
def State.permits (s : State) (l : Link) (cls : Nat) (m : Mode) : Bool :=
  match m with
  | .shared => (s.rightsOf l).sharedMask.getLsbD cls
  | .exclusive => (s.rightsOf l).exclusiveMask.getLsbD cls

/-- R8.3: the session of a link owns a slot that is WAITING, HELD or ENDING on this target. -/
def State.ownsOn (s : State) (l : Link) (t : EntryIx) : Bool :=
  slotIndices.any fun i =>
    decide ((s.slot i).body.owner? = some l ∧ (s.slot i).body.target? = some t)

/-- R8.5: the lowest-numbered FREE slot. -/
def State.lowestFree (s : State) : Option SlotIx :=
  slotIndices.find? fun i => decide ((s.slot i).body = .free)

/-- R2: the generation after an advance. -/
def nextGeneration (g : Nat) : Nat := if g = 65535 then 1 else g + 1

/-- R2: a slot leaves FREE with its generation advanced. -/
def State.leaveFree (s : State) (i : SlotIx) (body : SlotBody) : State :=
  s.setSlot i ⟨nextGeneration (s.slot i).generation, body⟩

/-- R70: the snapshot a record takes of its target. -/
def TargetFields.snapshot (f : TargetFields) : Snapshot :=
  ⟨f.address, f.speed, f.offsetWidth, f.pageSize, f.pollLimit, f.retryLimit⟩

end Sys2Proof.Machine
end

