-- ==== Sys2Proof/Machine/Intake.lean ====
section
/-! DEFINITION. The request intake of a link (R157): when it takes a frame, the generic checks, and the
hand-over to the owner of the request. -/

namespace Sys2Proof.Machine

/-- R155, R157, R158: may the intake of this link take a request? It has been given a place, or one is
available that nothing else waits for, and it is not held. -/
def State.intakeReady (s : State) (l : Link) : Bool :=
  ((s.link l).granted || s.intakeFirst l) && (s.link l).restoreHold.isNone

/-- R153, R157: the link unit after its intake has taken the head frame: HOLD is deasserted when one
frame is left, and the place found, or given before (R158), is kept for the answer. -/
def LinkUnit.taken (u : LinkUnit) (rest : List Frame) : LinkUnit :=
  { u with requestQueue := rest, hold := u.hold && !(rest.length == 1), reserved := true,
           granted := false }

/-- R157: the intake takes the head frame, if it may and the frame's CODE is one that `p` admits. -/
def State.takeFrame (s : State) (l : Link) (p : Byte → Bool) : Option (Frame × State) :=
  if s.intakeReady l then
    match (s.link l).requestQueue with
    | f :: rest => if p f.code then some (f, s.setLink l ((s.link l).taken rest)) else none
    | [] => none
  else none

/-- R157: the generic checks of a listed request, in order; none when it passes them all. -/
def State.genericRefusal (s : State) (l : Link) (r : Request) (f : Frame) : Option Status :=
  if s.part = .starting then some .starting
  else if !r.bodyOk f.body then some .badreq
  else if !(s.session l).isOpen && !(decide (r = .hello)) then some .nosession
  else if r.supervisor && !(decide (s.supervisor = some l)) then some .denied
  else none

/-- R157: the intake of a link takes a frame with the code of this request, checks it, and hands it to
its owner. Where the intake takes no such frame, nothing changes (notes/assumptions/3.md). -/
def State.serve (s : State) (l : Link) (r : Request) (owner : Link → Frame → State → State) : State :=
  match s.takeFrame l (fun c => c == r.code) with
  | none => s
  | some (f, s') =>
    match s'.genericRefusal l r f with
    | some status => s'.answer l f.tag status []
    | none => owner l f s'

end Sys2Proof.Machine
end

