-- ==== Sys2Proof/Machine/TransactionRequests.lean ====
section
/-! DEFINITION. READ and WRITE (R69, R70), and COLLECT (R131). -/

namespace Sys2Proof.Machine

/-- R70: the record of an accepted READ or WRITE. -/
def newRecord (kind : TxKind) (l : Link) (tag : Byte) (h : Handle) (f : TargetFields)
    (offset count : Nat) (data : List Byte) : Record where
  kind := kind
  state := .queued
  link := l
  tag := tag
  destination := some l
  handle := some h
  bus := f.busIx
  snapshot := f.snapshot
  offset := offset
  count := count
  data := data
  nextStart := offset
  bytesDone := 0
  stopRequested := false
  status := none
  phase := none

/-- R69, check 4: the request lies within the target. -/
def TargetFields.within (f : TargetFields) (offset count : Nat) : Bool :=
  decide (offset + count ≤ f.capacity) && (!(f.offsetWidth == 0) || offset == 0)

/-- Is the engine of a bus in FAULT? -/
def State.busFaulted (s : State) (b : BusIx) : Bool := decide ((s.engine b).state = .fault)

/-- R69, checks 2 to 6, for a HELD slot: a refusal, or the record to take with its target's fields. -/
def State.admitTransaction (s : State) (kind : TxKind) (h : HeldSlot) (offset count : Nat) :
    Except Status (PoolIx × TargetFields) :=
  if kind = .write ∧ h.mode = .shared then .error .mode
  else if h.inFlight.isSome then .error .inflight
  else
    match (s.entry h.target).body.fields? with
    | none => .error .bounds
    | some f =>
      if !f.within offset count then .error .bounds
      else if s.busFaulted f.busIx then .error .busfault
      else
        match s.roomFor f.busIx with
        | none => .error .qfull
        | some p => .ok (p, f)

/-- R70: an accepted READ or WRITE: the record joins its bus queue and the slot's transaction in flight
is set. -/
def State.acceptTransaction (s : State) (i : SlotIx) (h : HeldSlot) (p : PoolIx) (r : Record) : State :=
  (s.enqueue p r).setBody i (.held { h with inFlight := some p })

/-- R69, R70: READ or WRITE, its count and data already read from the body. -/
def serveTransaction (kind : TxKind) (l : Link) (f : Frame) (count : Nat) (data : List Byte)
    (s : State) : State :=
  match s.checkHandle l f.body with
  | .refused status => s.answer l f.tag status []
  | .waiting _ _ => s.answer l f.tag .notheld []
  | .held i h =>
    match s.admitTransaction kind h (wordAt f.body 3) count with
    | .error status => s.answer l f.tag status []
    | .ok (p, fields) =>
      (s.acceptTransaction i h p (newRecord kind l f.tag ⟨i, (s.slot i).generation⟩ fields
        (wordAt f.body 3) count data)).answerLater l

/-- R69: READ (handle, offset, count). -/
def serveRead (l : Link) (f : Frame) (s : State) : State :=
  serveTransaction .read l f (byteAt f.body 5).toNat [] s

/-- R69: WRITE (handle, offset, data). -/
def serveWrite (l : Link) (f : Frame) (s : State) : State :=
  serveTransaction .write l f (f.body.length - 5) (f.body.drop 5) s

/-- R131: the response to COLLECT and the notice unit after it. -/
def State.collectNotices (s : State) (l : Link) (tag : Byte) (n : Nat) : State :=
  let u := s.notice l
  let got := u.queue.take n
  let left := u.queue.drop n
  ((s.setNotice l { u with queue := left, overrun := false }).refreshAttn l).answer l tag .ok
    ([byteOf got.length, flagByte u.overrun, byteOf left.length] ++ got.flatMap Notice.bytes)

/-- R131: COLLECT (n). -/
def serveCollect (l : Link) (f : Frame) (s : State) : State :=
  let n := (byteAt f.body 0).toNat
  if n < 1 ∨ 4 < n then s.answer l f.tag .badreq [] else s.collectNotices l f.tag n

/-- READ (R69). -/
def execRead (l : Link) (s : State) : Host.Outcome State Fault Refusal :=
  .next (s.serve l .read serveRead)

/-- WRITE (R69). -/
def execWrite (l : Link) (s : State) : Host.Outcome State Fault Refusal :=
  .next (s.serve l .write serveWrite)

/-- COLLECT (R131). -/
def execCollect (l : Link) (s : State) : Host.Outcome State Fault Refusal :=
  .next (s.serve l .collect serveCollect)

end Sys2Proof.Machine
end

