-- ==== Sys2Proof/Machine/CatalogueRequests.lean ====
section
/-! DEFINITION. The supervisor's requests that change the catalogue, a bus or the part: SET-TARGET (R56),
DROP-TARGET (R58 to R60), SET-RIGHTS (R63), BUS-RESTORE (R102), SAVE-CATALOGUE (R143), RESTART (R147);
and a request with a CODE that is not listed (R157). -/

namespace Sys2Proof.Machine

/-- R56, checks 2 and 3, and its effect, for a valid field set. -/
def State.writeTarget (s : State) (l : Link) (tag : Byte) (t : EntryIx) (fields : TargetFields) :
    State :=
  if s.clashes t fields then s.answer l tag .clash []
  else
    match (s.entry t).body with
    | .absent => (s.makePresent t fields).answer l tag .ok []
    | .retiring _ => s.answer l tag .inuse []
    | .present _ =>
      if s.targetInUse t then s.answer l tag .inuse []
      else (s.makePresent t fields).answer l tag .ok []

/-- R56: SET-TARGET (index, fields). -/
def serveSetTarget (l : Link) (f : Frame) (s : State) : State :=
  match entryOf (byteAt f.body 0) with
  | none => s.answer l f.tag .badreq []
  | some t =>
    if (fieldsAt f.body 1).valid then s.writeTarget l f.tag t (fieldsAt f.body 1)
    else s.answer l f.tag .badreq []

/-- R59: one slot of the dropped entry. -/
def State.dropSlot (t : EntryIx) (s : State) (i : SlotIx) : State :=
  match (s.slot i).body with
  | .waiting w =>
    if w.target = t then
      (s.vacate i t).offerNotice w.owner
        ⟨s.slotSubject i, .waitEnded .dropped false w.mode⟩
    else s
  | .held h => if h.target = t then s.endLease i h dropEnd else s
  | .free => s
  | .ending _ => s

/-- R58: the slots that DROP-TARGET affects: those WAITING or HELD on the entry. -/
def State.dropCount (s : State) (t : EntryIx) : Nat :=
  slotIndices.countP fun i =>
    match (s.slot i).body with
    | .waiting w => decide (w.target = t)
    | .held h => decide (h.target = t)
    | _ => false

/-- R60: the entry's new state once its slots are treated. -/
def State.retire (s : State) (t : EntryIx) (f : TargetFields) : State :=
  s.setEntry t ⟨if s.targetInUse t then .retiring f else .absent, []⟩

/-- R59, R60: DROP-TARGET of a PRESENT entry. -/
def State.dropPresent (s : State) (t : EntryIx) (f : TargetFields) : State :=
  (slotIndices.foldl (State.dropSlot t) s).retire t f

/-- R58: DROP-TARGET (index). -/
def serveDropTarget (l : Link) (f : Frame) (s : State) : State :=
  match entryOf (byteAt f.body 0) with
  | none => s.answer l f.tag .badreq []
  | some t =>
    match (s.entry t).body with
    | .absent => s.answer l f.tag .notarget []
    | .retiring _ => s.answer l f.tag .ok [0]
    | .present fields =>
      (s.dropPresent t fields).answerAmong (s.link l).outbound.length l f.tag .ok
        [byteOf (s.dropCount t)]

/-- R63: SET-RIGHTS (link, shared mask, exclusive mask, quota, grace). -/
def serveSetRights (l : Link) (f : Frame) (s : State) : State :=
  match linkOf (byteAt f.body 0) with
  | none => s.answer l f.tag .badreq []
  | some k =>
    if (rightsAt f.body 1).valid then (s.setRights k (rightsAt f.body 1)).answer l f.tag .ok []
    else s.answer l f.tag .badreq []

/-- R102: the restore of a faulted bus begins; the outbound place stays reserved and the intake held.
Retries used, of no operation now, stays (notes/assumptions/26.md). -/
def State.beginRestore (s : State) (l : Link) (tag : Byte) (b : BusIx) : State :=
  (s.setEngine b { s.engine b with state := .recovering .restore, work := .restore }).setLink l
    { s.link l with restoreHold := some (b, tag) }

/-- R102: BUS-RESTORE (bus). -/
def serveBusRestore (l : Link) (f : Frame) (s : State) : State :=
  match busOf (byteAt f.body 0) with
  | none => s.answer l f.tag .badreq []
  | some b =>
    if s.busFaulted b then s.beginRestore l f.tag b else s.answer l f.tag .badstate []

/-- R143: an accepted save: the image is built, and the STORE is QUEUED on B0. -/
def State.beginSave (s : State) (l : Link) (tag : Byte) (p : PoolIx) : State :=
  (((s.setImage s.buildImage).enqueue p (storeRecord l tag s.buildImage.length)).setSaveJob
    (some p)).answerLater l

/-- R143: SAVE-CATALOGUE. -/
def serveSaveCatalogue (l : Link) (f : Frame) (s : State) : State :=
  if s.saveJob.isSome then s.answer l f.tag .saving []
  else if s.busFaulted 0 then s.answer l f.tag .busfault []
  else
    match s.roomFor 0 with
    | none => s.answer l f.tag .qfull []
    | some p => s.beginSave l f.tag p

/-- R147: the restart is recorded and the part becomes STARTING; every session that is OPEN or SUSPENDED
is to be torn down. -/
def State.beginRestart (s : State) (scope : Scope) : State :=
  (s.setPart .starting).setRestart
    (some ⟨scope, linkIndices.filter fun k => !(s.session k).isClosed⟩)

/-- R147: RESTART (scope). -/
def serveRestart (l : Link) (f : Frame) (s : State) : State :=
  match scopeOf (byteAt f.body 0) with
  | none => s.answer l f.tag .badreq []
  | some scope =>
    if s.saveJob.isSome then s.answer l f.tag .saving []
    else (s.answer l f.tag .ok []).beginRestart scope

/-- R157: the answer to a request whose CODE is not in Table 9-3: STARTING, or BADREQ. -/
def State.serveUnlisted (s : State) (l : Link) : State :=
  match s.takeFrame l (fun c => (requestOf c).isNone) with
  | none => s
  | some (f, s') => s'.answer l f.tag (if s'.part = .starting then .starting else .badreq) []

/-- SET_TARGET (R56). -/
def execSetTarget (l : Link) (s : State) : Host.Outcome State Fault Refusal :=
  .next (s.serve l .setTarget serveSetTarget)

/-- DROP_TARGET (R58). -/
def execDropTarget (l : Link) (s : State) : Host.Outcome State Fault Refusal :=
  .next (s.serve l .dropTarget serveDropTarget)

/-- SET_RIGHTS (R63). -/
def execSetRights (l : Link) (s : State) : Host.Outcome State Fault Refusal :=
  .next (s.serve l .setRights serveSetRights)

/-- BUS_RESTORE (R102). -/
def execBusRestore (l : Link) (s : State) : Host.Outcome State Fault Refusal :=
  .next (s.serve l .busRestore serveBusRestore)

/-- SAVE_CATALOGUE (R143). -/
def execSaveCatalogue (l : Link) (s : State) : Host.Outcome State Fault Refusal :=
  .next (s.serve l .saveCatalogue serveSaveCatalogue)

/-- RESTART (R147). -/
def execRestart (l : Link) (s : State) : Host.Outcome State Fault Refusal :=
  .next (s.serve l .restart serveRestart)

/-- UNLISTED_CODE_REQUEST (R157). -/
def execUnlistedCodeRequest (l : Link) (s : State) : Host.Outcome State Fault Refusal :=
  .next (s.serveUnlisted l)

end Sys2Proof.Machine
end

