-- ==== Sys2Proof/Machine/EngineEvents.lean ====
section
/-! DEFINITION. The bus engine events: TAKE_RECORD (R88), the ends of operations, segments and polls
(R94, R95, R97), the two 1 ms waits (R96, R97), the stretch fault (R92), the stuck clock (R89) and the
end of a recovery (R90); and what happens with no command waiting. Where the engine is not at the point
the event belongs to, nothing changes (notes/assumptions/3.md). -/

namespace Sys2Proof.Machine

/-- R88: the engine takes the head record: it leaves the queue and becomes ACTIVE. -/
def State.takeHead (s : State) (b : BusIx) (p : PoolIx) (r : Record) (rest : List PoolIx)
    (lines : LineLevels) : State :=
  let s := (s.setBusQueue b rest).setRecord p (some { r with state := .active })
  (s.setEngine b { s.engine b with work := .record p }).beginOperation b lines

/-- R88: an IDLE engine takes work: a load operation handed to B0, or the head of its bus queue. -/
def State.takeWork (s : State) (b : BusIx) (lines : LineLevels) : State :=
  if (s.engine b).state = .idle then
    if b = 0 ∧ s.load.isSome then s.takeLoadOperation lines
    else
      match s.busQueue b with
      | [] => s
      | p :: rest =>
        match s.record p with
        | some r => s.takeHead b p r rest lines
        | none => s
  else s

/-- R94: the read operation of a READ record ends. -/
def State.readEnds (s : State) (b : BusIx) (p : PoolIx) (r : Record) (run : BusRun)
    (lines : LineLevels) : State :=
  if run.refused then s.retryRecord b p r lines
  else (s.setRecord p (some { r with data := run.data })).endRecord b p .ok r.count lines

/-- R94, R96, R98: a load operation ends. -/
def State.loadEnds (s : State) (b : BusIx) (run : BusRun) (lines : LineLevels) : State :=
  if run.refused then
    match s.retry? b storeSnapshot.retryLimit with
    | some s' => s'
    | none => (s.engineIdle b).loadFailed .noack
  else (s.engineIdle b).loadAdvance run.data lines

/-- R94: a read operation ends. -/
def State.readOperationEnds (s : State) (b : BusIx) (readings : List Bool) (lines : LineLevels) :
    State :=
  match s.attemptRun b readings with
  | some (.operation, run, s') =>
    match (s.engine b).work with
    | .record p =>
      match s.record p with
      | some r => if r.kind = .read then s'.readEnds b p r run lines else s
      | none => s
    | .load => s'.loadEnds b run lines
    | _ => s
  | _ => s

/-- R95: the end of the data phase of a write segment acts on the record: refused at the address byte
it is retried, refused later it is DATANAK. -/
def State.segmentEnds (s : State) (b : BusIx) (p : PoolIx) (r : Record) (run : BusRun)
    (lines : LineLevels) : State :=
  if run.refused then
    if run.acknowledged = 0 then s.retryRecord b p r lines
    else s.endRecord b p .datanak (r.raised (r.dataAcknowledged run.acknowledged)).bytesDone lines
  else s.segmentSent b p r lines

/-- R95: the data phase of a write segment ends. -/
def State.writeSegmentEnds (s : State) (b : BusIx) (readings : List Bool) (lines : LineLevels) :
    State :=
  match s.attemptRun b readings with
  | some (.operation, run, s') =>
    match (s.engine b).work with
    | .record p =>
      match s.record p with
      | some r => if r.kind = .read then s else s'.segmentEnds b p r run lines
      | none => s
    | _ => s
  | _ => s

/-- R97: an attempt of a busy poll ends. -/
def State.busyPollEnds (s : State) (b : BusIx) (readings : List Bool) (lines : LineLevels) : State :=
  match s.attemptRun b readings with
  | some (.poll began, run, s') =>
    match (s.engine b).work with
    | .record p =>
      match s.record p with
      | some r =>
        if run.refused then s'.pollRefused b p r began lines else s'.segmentBoundary b p r lines
      | none => s
    | _ => s
  | _ => s

/-- R96: the wait before a retry runs out: the operation begins again from its line check. -/
def State.retryWaitExpires (s : State) (b : BusIx) (lines : LineLevels) : State :=
  match (s.engine b).state with
  | .active (.retryWait d) => (s.advanceTo d).lineCheck b .operation lines
  | _ => s

/-- R97: the wait before the next poll attempt runs out. -/
def State.pollWaitExpires (s : State) (b : BusIx) (lines : LineLevels) : State :=
  match (s.engine b).state with
  | .active (.pollWait d began) => (s.advanceTo d).lineCheck b (.poll began) lines
  | _ => s

/-- R66, R72, R92: what an operation cut off by a stretch leaves in its record: the data bytes that a WRITE
had acknowledged are counted in its bytes done, and the bytes that a READ had received stand in its data
(Table 4-1; all put down at this event, notes/assumptions/7.md). -/
def Record.cutOff (r : Record) (run : BusRun) : Record :=
  if r.kind = .read then { r with data := run.data }
  else r.raised (r.dataAcknowledged run.acknowledged)

/-- R66, R92: the record of an operation takes what had come of it when a stretch cuts it off. A load
operation has no record, and a busy poll counts no byte. -/
def State.keepStretched (s : State) (b : BusIx) (a : Attempt) (run : BusRun) : State :=
  match a, (s.engine b).work with
  | .operation, .record p =>
    match s.record p with
    | some r => s.setRecord p (some (r.cutOff run))
    | none => s
  | _, _ => s

/-- R92: a clock stretch exceeds 25 ms: the engine abandons the operation and becomes RECOVERING. -/
def State.stretchFault (s : State) (b : BusIx) (point : StretchPoint) : State :=
  match s.underway b with
  | some (a, plan) =>
    match runToStretch plan.elements point with
    | some run =>
      ((s.keepStretched b a run).setGiven b ⟨plan.speed, run.given⟩).setEngineState b
        (.recovering .stretch)
    | none => s
  | none => s

/-- R89.1, R99: the clock stays low for more than 25 ms in a line check. -/
def State.clockStuck (s : State) (b : BusIx) (lines : LineLevels) : State :=
  match (s.engine b).state with
  | .active (.lineWait _) => s.enterFault b .stuckClock .busfault lines
  | _ => s

/-- R89.3: the recovery run by a line check ends. -/
def State.lineRecoveryEnds (s : State) (b : BusIx) (a : Attempt) (result : RecoveryResult)
    (lines : LineLevels) : State :=
  match result with
  | .success => s.beginAttempt b a
  | _ => s.enterFault b (recoveryReason result) .busfault lines

/-- R92: the recovery run after a stretch fault ends. -/
def State.stretchRecoveryEnds (s : State) (b : BusIx) (result : RecoveryResult) (lines : LineLevels) :
    State :=
  match result with
  | .success => s.stretchRecovered b lines
  | _ => s.enterFault b .stretch .timeout lines

/-- R90: a recovery has ended; what its outcome does is the rule's that ran it. A recovery that a line
check ran when its clock rose between two commands is ended from the line check itself
(notes/assumptions/6.md). -/
def State.recoveryOutcome (s : State) (b : BusIx) (result : RecoveryResult) (lines : LineLevels) :
    State :=
  match (s.engine b).state with
  | .recovering (.lineCheck a) => s.lineRecoveryEnds b a result lines
  | .active (.lineWait a) => s.lineRecoveryEnds b a result lines
  | .recovering .stretch => s.stretchRecoveryEnds b result lines
  | .recovering .restore => s.restoreEnds b result
  | _ => s

/-- Is a recovery under way on the bus, or can one have begun at the rise of its clock? -/
def EngineState.mayRecover : EngineState → Bool
  | .recovering _ => true
  | .active (.lineWait _) => true
  | _ => false

/-- R90: a recovery ends, at 100 kHz, by the levels it met. -/
def State.recoveryEnds (s : State) (b : BusIx) (met : List LineLevels) (lines : LineLevels) : State :=
  match runRecovery met with
  | some rec =>
    if (s.engine b).state.mayRecover then
      (s.setGiven b ⟨0, rec.given⟩).recoveryOutcome b rec.result lines
    else s
  | none => s

/-! ### The rise of the clock in a line check (R89.1) -/

/-- R89: the clock that an engine waited for goes high, and the check goes on with the levels now on the
lines. -/
def State.clockRises (s : State) (b : BusIx) (lines : LineLevels) : State :=
  match (s.engine b).state with
  | .active (.lineWait a) => s.lineCheck b a lines
  | _ => s

/-- Does this engine wait for its clock in a line check? -/
def EngineState.waitsForClock : EngineState → Bool
  | .active (.lineWait _) => true
  | _ => false

/-- A tick of the timebase (notes/assumptions/1.md). -/
def State.tick (s : State) : State := { s with now := s.now + 1 }

/-- What happens with no command waiting: a tick; or, where an engine waits for its clock in a line
check, whichever the bus brings of a tick and the rise of that clock (notes/assumptions/6.md). -/
def State.idles (s : State) : State :=
  if (s.engine 0).state.waitsForClock || (s.engine 1).state.waitsForClock then
    let s' := s.setFreeCount (s.freeCount + 1)
    match Config.idleEvent s.freeCount with
    | 0 => s'.clockRises 0 .bothHigh
    | 1 => s'.clockRises 0 .dataLow
    | 2 => s'.clockRises 1 .bothHigh
    | 3 => s'.clockRises 1 .dataLow
    | _ => s'.tick
  else s.tick

/-- TAKE_RECORD (R88). -/
def execTakeRecord (b : BusIx) (lines : LineLevels) (s : State) : Host.Outcome State Fault Refusal :=
  .next (s.takeWork b lines)

/-- READ_OPERATION_END (R94). -/
def execReadOperationEnd (b : BusIx) (readings : List Bool) (lines : LineLevels) (s : State) :
    Host.Outcome State Fault Refusal :=
  .next (s.readOperationEnds b readings lines)

/-- WRITE_SEGMENT_END (R95). -/
def execWriteSegmentEnd (b : BusIx) (readings : List Bool) (lines : LineLevels) (s : State) :
    Host.Outcome State Fault Refusal :=
  .next (s.writeSegmentEnds b readings lines)

/-- BUSY_POLL_END (R97). -/
def execBusyPollEnd (b : BusIx) (readings : List Bool) (lines : LineLevels) (s : State) :
    Host.Outcome State Fault Refusal :=
  .next (s.busyPollEnds b readings lines)

/-- ADDRESS_RETRY_WAIT_EXPIRY (R96). -/
def execAddressRetryWaitExpiry (b : BusIx) (lines : LineLevels) (s : State) :
    Host.Outcome State Fault Refusal :=
  .next (s.retryWaitExpires b lines)

/-- BUSY_POLL_WAIT_EXPIRY (R97). -/
def execBusyPollWaitExpiry (b : BusIx) (lines : LineLevels) (s : State) :
    Host.Outcome State Fault Refusal :=
  .next (s.pollWaitExpires b lines)

/-- CLOCK_STRETCH_FAULT (R92). -/
def execClockStretchFault (b : BusIx) (point : StretchPoint) (s : State) :
    Host.Outcome State Fault Refusal :=
  .next (s.stretchFault b point)

/-- LINE_CHECK_CLOCK_STUCK (R89). -/
def execLineCheckClockStuck (b : BusIx) (lines : LineLevels) (s : State) :
    Host.Outcome State Fault Refusal :=
  .next (s.clockStuck b lines)

/-- RECOVERY_END (R90). -/
def execRecoveryEnd (b : BusIx) (met : List LineLevels) (lines : LineLevels) (s : State) :
    Host.Outcome State Fault Refusal :=
  .next (s.recoveryEnds b met lines)

end Sys2Proof.Machine
end

