-- ==== Sys2Proof/Machine/LeaseRequests.lean ====
section
/-! DEFINITION. The lease requests OPEN, RENEW, RELEASE, CHANGE-MODE and REVOKE (Sections 1 and 2). -/

namespace Sys2Proof.Machine

/-! ### OPEN -/

/-- The arguments of OPEN (Table 9-3), its mode and target already read. -/
structure OpenArgs where
  target : EntryIx
  mode : Mode
  term : Nat
  wait : Nat
  deriving DecidableEq, Repr

/-- R7: the fields of OPEN; none is BADREQ. -/
def openArgs (body : List Byte) : Option OpenArgs :=
  match entryOf (byteAt body 0), modeOf (byteAt body 1) with
  | some t, some m =>
    if 60000 < wordAt body 2 then none
    else if 6000 < wordAt body 4 then none
    else some ⟨t, m, wordAt body 2, wordAt body 4⟩
  | _, _ => none

/-- R9: the lease is granted at once in a FREE slot. -/
def State.openGranted (s : State) (l : Link) (tag : Byte) (a : OpenArgs) (i : SlotIx) (term : Nat) :
    State :=
  let s := s.leaveFree i (.held (grantedSlot l a.target a.mode term s.now))
  (s.warnIfDue i).answer l tag .ok
    (handleBytes i (s.slot i).generation ++ wordBytes (term / Config.unitMs))

/-- R10, case 3: the request waits at the tail of the target's queue in a FREE slot. -/
def State.openWaiting (s : State) (l : Link) (tag : Byte) (a : OpenArgs) (i : SlotIx) (term : Nat) :
    State :=
  let s := s.leaveFree i (.waiting ⟨l, a.target, a.mode, term, s.now + a.wait * Config.unitMs⟩)
  (s.setWaitQueue a.target ((s.entry a.target).waitQueue ++ [i])).answer l tag .waiting
    (handleBytes i (s.slot i).generation)

/-- R10: the immediate-grant test has failed. -/
def State.openContended (s : State) (l : Link) (tag : Byte) (a : OpenArgs) (i : SlotIx)
    (f : TargetFields) : State :=
  if a.wait = 0 then s.answer l tag .contended []
  else if f.qlim ≤ s.waitingCount a.target then s.answer l tag .crowded []
  else s.openWaiting l tag a i (requestedTerm f a.term)

/-- R8: the admission checks of OPEN. -/
def State.admitOpen (s : State) (l : Link) (tag : Byte) (a : OpenArgs) : State :=
  match (s.entry a.target).body with
  | .absent => s.answer l tag .notarget []
  | .retiring _ => s.answer l tag .notarget []
  | .present f =>
    if !s.permits l f.cls a.mode then s.answer l tag .denied []
    else if s.ownsOn l a.target then s.answer l tag .duplicate []
    else if (s.rightsOf l).quota ≤ s.slotCount l then s.answer l tag .overquota []
    else
      match s.lowestFree with
      | none => s.answer l tag .full []
      | some i =>
        if s.grantableAtOnce a.target a.mode then
          s.openGranted l tag a i (requestedTerm f a.term)
        else s.openContended l tag a i f

/-- R7, R8: OPEN (target, mode, term, wait limit). -/
def serveOpen (l : Link) (f : Frame) (s : State) : State :=
  match openArgs f.body with
  | none => s.answer l f.tag .badreq []
  | some a => s.admitOpen l f.tag a

/-! ### RENEW and RELEASE -/

/-- R13: RENEW of a HELD slot. -/
def State.renewHeld (s : State) (l : Link) (tag : Byte) (i : SlotIx) (h : HeldSlot) (units : Nat) :
    State :=
  let term := s.requestedTermFor h.target units
  let s := s.setBody i
    (.held { h with requestedTerm := term, termDeadline := s.now + term, lapseWarned := false })
  (s.warnIfDue i).answer l tag .ok (wordBytes (term / Config.unitMs))

/-- R13: RENEW (handle, term). -/
def serveRenew (l : Link) (f : Frame) (s : State) : State :=
  if 60000 < wordAt f.body 3 then s.answer l f.tag .badreq []
  else
    match s.checkHandle l f.body with
    | .refused status => s.answer l f.tag status []
    | .waiting _ _ => s.answer l f.tag .notheld []
    | .held i h => s.renewHeld l f.tag i h (wordAt f.body 3)

/-- R16, R43: a WAITING slot becomes FREE and leaves the queue; the pass runs if it was the head. -/
def State.endWaiting (s : State) (i : SlotIx) (t : EntryIx) : State :=
  (s.vacate i t).grantPassIf (s.isHead t i) t

/-- R16: RELEASE (handle). -/
def serveRelease (l : Link) (f : Frame) (s : State) : State :=
  match s.checkHandle l f.body with
  | .refused status => s.answer l f.tag status []
  | .waiting i w => (s.endWaiting i w.target).answer l f.tag .ok []
  | .held i h =>
    if h.inFlight.isSome then s.answer l f.tag .inflight []
    else ((s.vacate i h.target).grantPass h.target).answer l f.tag .ok []

/-! ### CHANGE-MODE -/

/-- R19: CHANGE-MODE to SHARED of a HELD idle slot. -/
def State.changeToShared (s : State) (i : SlotIx) (h : HeldSlot) : State :=
  match h.mode with
  | .exclusive => (s.setBody i (.held { h with mode := .shared })).grantPass h.target
  | .shared =>
    if h.upgrade.isSome then
      ((s.setBody i (.held { h with upgrade := none })).leaveQueue h.target i).grantPass h.target
    else s

/-- R20, step 4: another slot on the target has an upgrade pending. -/
def State.otherUpgrade (s : State) (t : EntryIx) (i : SlotIx) : Bool :=
  slotIndices.any fun j =>
    match (s.slot j).body with
    | .held h => decide (j ≠ i ∧ h.target = t) && h.upgrade.isSome
    | _ => false

/-- R20: CHANGE-MODE to EXCLUSIVE of a HELD idle slot: the response and the state. -/
def State.changeToExclusive (s : State) (l : Link) (i : SlotIx) (h : HeldSlot) (wait : Nat) :
    Status × State :=
  let cls := match (s.entry h.target).body.fields? with
    | some f => f.cls
    | none => 8
  if !s.permits l cls .exclusive then (.denied, s)
  else if h.mode = .exclusive then (.ok, s)
  else if s.onlyHolder h.target i then (.ok, s.setBody i (.held { h with mode := .exclusive }))
  else if s.otherUpgrade h.target i then (.conflict, s)
  else if h.upgrade.isSome then (.waiting, s)
  else if wait = 0 then (.contended, s)
  else
    let s := s.setBody i (.held { h with upgrade := some (s.now + wait * Config.unitMs) })
    (.waiting, s.setWaitQueue h.target (i :: (s.entry h.target).waitQueue))

/-- R18: CHANGE-MODE (handle, mode, wait limit). -/
def serveChangeMode (l : Link) (f : Frame) (s : State) : State :=
  match modeOf (byteAt f.body 3) with
  | none => s.answer l f.tag .badreq []
  | some m =>
    if 6000 < wordAt f.body 4 then s.answer l f.tag .badreq []
    else
      match s.checkHandle l f.body with
      | .refused status => s.answer l f.tag status []
      | .waiting _ _ => s.answer l f.tag .notheld []
      | .held i h =>
        if h.inFlight.isSome then s.answer l f.tag .inflight []
        else
          match m with
          | .shared => (s.changeToShared i h).answer l f.tag .ok []
          | .exclusive =>
            let (status, s') := s.changeToExclusive l i h (wordAt f.body 4)
            s'.answer l f.tag status []

/-! ### REVOKE -/

/-- R21: REVOKE of a slot of the table. -/
def State.revokeSlot (s : State) (l : Link) (tag : Byte) (i : SlotIx) (generation : Nat) : State :=
  if (s.slot i).generation = generation then
    match (s.slot i).body with
    | .free => s.answer l tag .stale []
    | .ending _ => s.answer l tag .ended []
    | .waiting _ => s.answer l tag .notheld []
    | .held h =>
      (s.endLeaseAndPass i h revokeEnd).answerAmong (s.link l).outbound.length l tag .ok
        [(s.leftBy h).code]
  else s.answer l tag .stale []

/-- R21: REVOKE (slot index, generation). -/
def serveRevoke (l : Link) (f : Frame) (s : State) : State :=
  match slotOf (byteAt f.body 0) with
  | none => s.answer l f.tag .badreq []
  | some i => s.revokeSlot l f.tag i (wordAt f.body 1)

/-- OPEN (R8). -/
def execOpen (l : Link) (s : State) : Host.Outcome State Fault Refusal :=
  .next (s.serve l .openLease serveOpen)

/-- RENEW (R13). -/
def execRenew (l : Link) (s : State) : Host.Outcome State Fault Refusal :=
  .next (s.serve l .renew serveRenew)

/-- RELEASE (R16). -/
def execRelease (l : Link) (s : State) : Host.Outcome State Fault Refusal :=
  .next (s.serve l .release serveRelease)

/-- CHANGE_MODE (R18). -/
def execChangeMode (l : Link) (s : State) : Host.Outcome State Fault Refusal :=
  .next (s.serve l .changeMode serveChangeMode)

/-- REVOKE (R21). -/
def execRevoke (l : Link) (s : State) : Host.Outcome State Fault Refusal :=
  .next (s.serve l .revoke serveRevoke)

end Sys2Proof.Machine
end

