-- ==== Sys2Proof/Machine/LinkEvents.lean ====
section
/-! DEFINITION. The link units: BREAK (R151), LINK_UP (R150), the framer (R152, R153, R156) and the
transmitter (R154, R155). -/

namespace Sys2Proof.Machine

/-! ### The line -/

/-- R150, R151: a break: an UP link goes DOWN; on a DOWN link the idle measure restarts. -/
def State.breakFound (s : State) (l : Link) : State :=
  match (s.link l).line with
  | .up => s.linkDown l
  | .down => s.setLink l { s.link l with idleFrom := s.now }

/-- R150: idle found on a DOWN link brings it UP. -/
def State.idleFound (s : State) (l : Link) : State :=
  match (s.link l).line with
  | .up => s
  | .down =>
    let s := s.advanceTo ((s.link l).idleFrom + Config.idleTime)
    s.setLink l { s.link l with line := .up }

/-! ### The framer -/

/-- R156: the pending-reject record after a reject with this reason. -/
def raiseReject (reason : RejectReason) : Option (Nat × RejectReason) → Option (Nat × RejectReason)
  | none => some (1, reason)
  | some (count, first) => some (min (count + 1) 255, first)

/-- R152, R156: the framer rejects and returns to HUNT; the record takes a place if it can (R155). -/
def State.framerRejects (s : State) (l : Link) (reason : RejectReason) : State :=
  (s.setLink l { s.link l with
    framer := .hunt, pendingReject := raiseReject reason (s.link l).pendingReject }).givePlace l

/-- R153: a checked frame joins the request queue; HOLD is asserted when the count becomes 3. -/
def LinkUnit.joined (u : LinkUnit) (f : Frame) : LinkUnit :=
  { u with framer := .hunt, requestQueue := u.requestQueue ++ [f],
           hold := u.hold || u.requestQueue.length + 1 == 3 }

/-- R152: the last expected character of a frame has arrived: LEN and the characters after it. -/
def State.frameEnds (s : State) (l : Link) (len : Nat) (chars : List Byte) : State :=
  let content := chars.take len
  if chars.drop len ≠ crcBytes (byteOf len :: content) then s.framerRejects l .badcheck
  else if (s.link l).requestQueue.length < Config.requestQueueDepth then
    s.setLink l ((s.link l).joined ⟨byteAt content 0, byteAt content 1, content.drop 2⟩)
  else s.framerRejects l .overrun

/-- R152: the framer goes to a state. -/
def State.setFramer (s : State) (l : Link) (x : Framer) : State :=
  s.setLink l { s.link l with framer := x }

/-- R152: the framer of an UP link takes a character. -/
def State.framerTakes (s : State) (l : Link) (c : Byte) : State :=
  match (s.link l).framer with
  | .hunt => if c = requestStart then s.setFramer l (.length (s.now + Config.gapLimit)) else s
  | .length _ =>
    if c.toNat < 2 ∨ 80 < c.toNat then s.framerRejects l .badlength
    else s.setFramer l (.content c.toNat [] (s.now + Config.gapLimit))
  | .content len got _ =>
    if got.length + 1 < len + 2 then
      s.setFramer l (.content len (got ++ [c]) (s.now + Config.gapLimit))
    else s.frameEnds l len (got ++ [c])

/-- R152: a character received; a DOWN link takes none (R150). -/
def State.charReceived (s : State) (l : Link) (c : Byte) : State :=
  match (s.link l).line with
  | .up => s.framerTakes l c
  | .down => s

/-- R152: a character with a low stop bit; ignored in HUNT and on a DOWN link. -/
def State.badCharacter (s : State) (l : Link) : State :=
  match (s.link l).line, (s.link l).framer with
  | .down, _ => s
  | .up, .hunt => s
  | .up, .length _ => s.framerRejects l .badchar
  | .up, .content _ _ _ => s.framerRejects l .badchar

/-- R152: the gap timer runs out in LENGTH or CONTENT; in HUNT it is not running. -/
def State.gapExpires (s : State) (l : Link) : State :=
  match (s.link l).framer with
  | .hunt => s
  | .length gap => (s.advanceTo gap).framerRejects l .gap
  | .content _ _ gap => (s.advanceTo gap).framerRejects l .gap

/-! ### The transmitter -/

/-- R154, R159: an idle transmitter of an UP link begins the head frame if HOLDIN is deasserted. -/
def State.transmitStarts (s : State) (l : Link) (holdin : Bool) : State :=
  let u := s.link l
  if u.line = .up ∧ u.sending = none ∧ holdin = false then
    match u.outbound with
    | r :: _ => s.setLink l { u with sending := some (responseCharacters r) }
    | [] => s
  else s

/-- R154, R155, R158: the frame being sent has been sent; its place is given away. -/
def State.frameSent (s : State) (l : Link) : State :=
  let u := s.link l
  if u.sending.isSome then
    (s.setLink l { u with sending := none, outbound := u.outbound.drop 1 }).placeFreed l
  else s

/-- BREAK (R151). -/
def execLineBreak (l : Link) (s : State) : Host.Outcome State Fault Refusal :=
  .next (s.breakFound l)

/-- LINK_UP (R150). -/
def execLinkUp (l : Link) (s : State) : Host.Outcome State Fault Refusal :=
  .next (s.idleFound l)

/-- CHARACTER_RECEIVED (R152). -/
def execCharacterReceived (l : Link) (c : Byte) (s : State) : Host.Outcome State Fault Refusal :=
  .next (s.charReceived l c)

/-- BAD_CHARACTER (R152). -/
def execBadCharacter (l : Link) (s : State) : Host.Outcome State Fault Refusal :=
  .next (s.badCharacter l)

/-- GAP_TIMER_EXPIRY (R152). -/
def execGapTimerExpiry (l : Link) (s : State) : Host.Outcome State Fault Refusal :=
  .next (s.gapExpires l)

/-- TRANSMIT_FRAME_START (R154). -/
def execTransmitFrameStart (l : Link) (holdin : Bool) (s : State) :
    Host.Outcome State Fault Refusal :=
  .next (s.transmitStarts l holdin)

/-- FRAME_SENT (R154). -/
def execFrameSent (l : Link) (s : State) : Host.Outcome State Fault Refusal :=
  .next (s.frameSent l)

end Sys2Proof.Machine
end

