-- ==== Sys2Proof/Machine/QueryRequests.lean ====
section
/-! DEFINITION. The requests that only examine: QUERY-TARGET (R65), QUERY-SLOT (R26), QUERY-BUS (R104),
QUERY-LINK (R121) and QUERY-START (R142), with their response bodies (Table 9-6). -/

namespace Sys2Proof.Machine

/-- A slot index, or 0xFF for none (Table 9-6). -/
def slotOrNone : Option SlotIx → Byte
  | some i => byteOf i.val
  | none => 0xFF

/-- R28: the shared holder count. -/
def State.sharedCount (s : State) (t : EntryIx) : Nat :=
  (s.holders t).countP fun h => decide (h.2 = .shared)

/-- R65, Table 9-6: the body of a QUERY-TARGET response. -/
def State.targetReport (s : State) (t : EntryIx) : List Byte :=
  let fields := match (s.entry t).body.fields? with
    | some f => fieldBytes f
    | none => List.replicate 14 0
  [(s.entry t).body.code] ++ fields ++
    [byteOf (s.sharedCount t), slotOrNone (s.exclusiveHolder t),
      byteOf (s.entry t).waitQueue.length, slotOrNone (s.upgradeWaiter t)]

/-- The time from now to a deadline, in units of 10 ms, rounded down. -/
def State.remaining (s : State) (deadline : Nat) : Nat := (deadline - s.now) / Config.unitMs

/-- The flags byte of QUERY-SLOT (Table 9-6). -/
def slotFlags (upgrade warned inFlight : Bool) : Byte :=
  byteOf ((if upgrade then 1 else 0) + (if warned then 2 else 0) + (if inFlight then 4 else 0))

/-- R26, Table 9-6: the body of a QUERY-SLOT response; absent fields are zero (R1). -/
def State.slotReport (s : State) (i : SlotIx) : List Byte :=
  let head := (s.slot i).body.stateName.code :: wordBytes (s.slot i).generation
  match (s.slot i).body with
  | .free => head ++ List.replicate 11 0
  | .waiting w =>
    head ++ [byteOf w.owner.val, byteOf w.target.val, w.mode.code]
      ++ wordBytes (w.requestedTerm / Config.unitMs) ++ [0, 0]
      ++ wordBytes (s.remaining w.waitDeadline) ++ [0, 0]
  | .held h =>
    head ++ [byteOf h.owner.val, byteOf h.target.val, h.mode.code]
      ++ wordBytes (h.requestedTerm / Config.unitMs) ++ wordBytes (s.remaining h.termDeadline)
      ++ wordBytes (match h.upgrade with
        | some d => s.remaining d
        | none => 0)
      ++ [slotFlags h.upgrade.isSome h.lapseWarned h.inFlight.isSome, 0]
  | .ending e =>
    head ++ [match e.owner with
        | some l => byteOf l.val
        | none => 4, byteOf e.target.val, e.mode.code]
      ++ [0, 0, 0, 0, 0, 0, slotFlags false false e.inFlight.isSome, e.cause.code]

/-- R104, Table 9-6: the body of a QUERY-BUS response. -/
def State.busReport (s : State) (b : BusIx) : List Byte :=
  let e := s.engine b
  let active := match e.work with
    | .record p =>
      match s.record p with
      | some r => [1, byteOf r.link.val, r.tag]
      | none => [0, 0, 0]
    | _ => [0, 0, 0]
  [e.state.code, byteOf (s.busQueue b).length, e.lastFault.code] ++ active

/-- R121: the key of a session, 0 if it is CLOSED. -/
def Session.keyValue : Session → Nat
  | .closed => 0
  | .opened k => k
  | .suspended k _ => k

/-- R121: the remaining grace of a SUSPENDED session, and 0 otherwise. -/
def State.remainingGrace (s : State) (l : Link) : Nat :=
  match s.session l with
  | .suspended _ d => s.remaining d
  | _ => 0

/-- R121, Table 9-6: the body of a QUERY-LINK response. -/
def State.linkReport (s : State) (l : Link) : List Byte :=
  let u := s.link l
  [u.line.code, (s.session l).code] ++ wordBytes (s.session l).keyValue
    ++ wordBytes (s.remainingGrace l)
    ++ [byteOf (s.slotCount l), byteOf (s.notice l).queue.length, byteOf u.requestQueue.length,
      byteOf u.outbound.length, match u.pendingReject with
        | some (count, _) => byteOf count
        | none => 0]

/-- R142, Table 9-6: the body of a QUERY-START response. -/
def Report.bytes (r : Report) : List Byte :=
  [r.outcome.code, byteOf r.targets, byteOf r.rights, byteOf r.defects]
    ++ wordBytes r.firstOffset ++ [r.firstReason.code]

/-- R65: QUERY-TARGET (index). -/
def serveQueryTarget (l : Link) (f : Frame) (s : State) : State :=
  match entryOf (byteAt f.body 0) with
  | none => s.answer l f.tag .badreq []
  | some t => s.answer l f.tag .ok (s.targetReport t)

/-- R26: QUERY-SLOT (slot index). -/
def serveQuerySlot (l : Link) (f : Frame) (s : State) : State :=
  match slotOf (byteAt f.body 0) with
  | none => s.answer l f.tag .badreq []
  | some i => s.answer l f.tag .ok (s.slotReport i)

/-- R104: QUERY-BUS (bus). -/
def serveQueryBus (l : Link) (f : Frame) (s : State) : State :=
  match busOf (byteAt f.body 0) with
  | none => s.answer l f.tag .badreq []
  | some b => s.answer l f.tag .ok (s.busReport b)

/-- R121: QUERY-LINK (link). -/
def serveQueryLink (l : Link) (f : Frame) (s : State) : State :=
  match linkOf (byteAt f.body 0) with
  | none => s.answer l f.tag .badreq []
  | some k => s.answer l f.tag .ok (s.linkReport k)

/-- R142: QUERY-START. -/
def serveQueryStart (l : Link) (f : Frame) (s : State) : State :=
  s.answer l f.tag .ok s.report.bytes

/-- QUERY_TARGET (R65). -/
def execQueryTarget (l : Link) (s : State) : Host.Outcome State Fault Refusal :=
  .next (s.serve l .queryTarget serveQueryTarget)

/-- QUERY_SLOT (R26). -/
def execQuerySlot (l : Link) (s : State) : Host.Outcome State Fault Refusal :=
  .next (s.serve l .querySlot serveQuerySlot)

/-- QUERY_BUS (R104). -/
def execQueryBus (l : Link) (s : State) : Host.Outcome State Fault Refusal :=
  .next (s.serve l .queryBus serveQueryBus)

/-- QUERY_LINK (R121). -/
def execQueryLink (l : Link) (s : State) : Host.Outcome State Fault Refusal :=
  .next (s.serve l .queryLink serveQueryLink)

/-- QUERY_START (R142). -/
def execQueryStart (l : Link) (s : State) : Host.Outcome State Fault Refusal :=
  .next (s.serve l .queryStart serveQueryStart)

end Sys2Proof.Machine
end

