-- ==== Sys2Proof/Machine/SessionRequests.lean ====
section
/-! DEFINITION. The session requests HELLO and BYE (Section 6). -/

namespace Sys2Proof.Machine

/-- R109: the OK response to HELLO with the counts as they stand. -/
def State.answerHello (s : State) (l : Link) (tag : Byte) (resumed : Bool) : State :=
  s.answer l tag .ok
    [flagByte resumed, byteOf (s.slotCount l), byteOf (s.notice l).queue.length]

/-- R111: a new session becomes OPEN, with an empty notice queue and its overrun flag clear. -/
def State.openSession (s : State) (l : Link) (key : Nat) : State :=
  (s.clearNotices l).putSession l (.opened key)

/-- R109, Table 6-1: HELLO with a key other than 0. -/
def State.helloByState (s : State) (l : Link) (tag : Byte) (key : Nat) : State :=
  match s.session l with
  | .closed => (s.openSession l key).answerHello l tag false
  | .opened held =>
    if held = key then s.answerHello l tag false
    else ((s.teardown l).openSession l key).answerHello l tag false
  | .suspended held _ =>
    if held = key then (s.putSession l (.opened key)).answerHello l tag true
    else ((s.teardown l).openSession l key).answerHello l tag false

/-- R109: HELLO (key). -/
def serveHello (l : Link) (f : Frame) (s : State) : State :=
  if wordAt f.body 0 = 0 then s.answer l f.tag .badreq []
  else s.helloByState l f.tag (wordAt f.body 0)

/-- R112: BYE: the OK response is placed first, then the session is torn down. -/
def serveBye (l : Link) (f : Frame) (s : State) : State :=
  (s.answer l f.tag .ok []).teardown l

/-- HELLO (R109). -/
def execHello (l : Link) (s : State) : Host.Outcome State Fault Refusal :=
  .next (s.serve l .hello serveHello)

/-- BYE (R112). -/
def execBye (l : Link) (s : State) : Host.Outcome State Fault Refusal :=
  .next (s.serve l .bye serveBye)

end Sys2Proof.Machine
end

