-- ==== Sys2Proof/Machine/StartUpEvents.lean ====
section
/-! DEFINITION. COLD_START (R135, R136, R106) and RESTART_TEARDOWN (R123, R148). -/

namespace Sys2Proof.Machine

/-- R136: the supervisor link that the straps designate. -/
def strapSupervisor (supen : Bool) (supsel : BitVec 2) : Option Link :=
  if supen then some ⟨supsel.toNat, supsel.isLt⟩ else none

/-- R135: cold start with these straps; the first load operation is taken, with the line levels it
finds on B0. -/
def State.coldStart (s : State) (supen : Bool) (supsel rate : BitVec 2) (lines : LineLevels) : State :=
  (coldState s.pending s.now s.freeCount (strapSupervisor supen supsel) rate).takeLoadOperation lines

/-- R123, R147: one teardown set in train by RESTART is taken; a session already CLOSED is left. -/
def State.restartTears (s : State) (l : Link) (lines : LineLevels) : State :=
  match s.restart with
  | some job =>
    if job.teardowns.contains l then
      let s := if (s.session l).isClosed then s else s.teardown l
      (s.setRestart (some { job with teardowns := job.teardowns.erase l })).checkDrain lines
    else s
  | none => s

/-- COLD_START (R135). -/
def execColdStart (supen : Bool) (supsel rate : BitVec 2) (lines : LineLevels) (s : State) :
    Host.Outcome State Fault Refusal :=
  .next (s.coldStart supen supsel rate lines)

/-- RESTART_TEARDOWN (R123). -/
def execRestartTeardown (l : Link) (lines : LineLevels) (s : State) :
    Host.Outcome State Fault Refusal :=
  .next (s.restartTears l lines)

end Sys2Proof.Machine
end

