-- ==== Sys2Proof/Machine/TimerEvents.lean ====
section
/-! DEFINITION. The timers of leases, waits and sessions: TERM_EXPIRY (R14), LAPSE_WARNING (R12),
WAIT_EXPIRY (R43), UPGRADE_WAIT_EXPIRY (R44), GRACE_EXPIRY (R115). A command says that its timer runs
out; the time is brought to its deadline (notes/assumptions/2.md). Where the timer is not running,
nothing changes (notes/assumptions/3.md). -/

namespace Sys2Proof.Machine

/-- R14: the term timer of a slot runs out. -/
def State.termExpires (s : State) (i : SlotIx) : State :=
  match (s.slot i).body with
  | .held h => (s.advanceTo h.termDeadline).endLeaseAndPass i h lapseEnd
  | _ => s

/-- R12: the lapse warning of a slot falls due. -/
def State.warningFallsDue (s : State) (i : SlotIx) : State :=
  match (s.slot i).body with
  | .held h =>
    if h.lapseWarned = false ∧ 0 < s.warnMs h.target then
      (s.advanceTo (h.termDeadline - s.warnMs h.target)).warnIfDue i
    else s
  | _ => s

/-- R43: the wait timer of a WAITING slot runs out. -/
def State.waitExpires (s : State) (i : SlotIx) : State :=
  match (s.slot i).body with
  | .waiting w =>
    let s := s.advanceTo w.waitDeadline
    let head := s.isHead w.target i
    ((s.vacate i w.target).offerNotice w.owner
      ⟨s.slotSubject i, .waitEnded .expired false w.mode⟩).grantPassIf head w.target
  | _ => s

/-- R44: the wait timer of an upgrade waiter runs out. -/
def State.upgradeExpires (s : State) (i : SlotIx) : State :=
  match (s.slot i).body with
  | .held h =>
    match h.upgrade with
    | some d =>
      let s := s.advanceTo d
      ((((s.setBody i (.held { h with upgrade := none })).leaveQueue h.target i).offerNotice h.owner
        ⟨s.slotSubject i, .waitEnded .expired true .exclusive⟩)).grantPass h.target
    | none => s
  | _ => s

/-- R115: the grace timer of a SUSPENDED session runs out. -/
def State.graceExpires (s : State) (l : Link) : State :=
  match s.session l with
  | .suspended _ d => (s.advanceTo d).teardown l
  | _ => s

/-- TERM_EXPIRY (R14). -/
def execTermExpiry (k : SlotIx) (s : State) : Host.Outcome State Fault Refusal :=
  .next (s.termExpires k)

/-- LAPSE_WARNING (R12). -/
def execLapseWarning (k : SlotIx) (s : State) : Host.Outcome State Fault Refusal :=
  .next (s.warningFallsDue k)

/-- WAIT_EXPIRY (R43). -/
def execWaitExpiry (k : SlotIx) (s : State) : Host.Outcome State Fault Refusal :=
  .next (s.waitExpires k)

/-- UPGRADE_WAIT_EXPIRY (R44). -/
def execUpgradeWaitExpiry (k : SlotIx) (s : State) : Host.Outcome State Fault Refusal :=
  .next (s.upgradeExpires k)

/-- GRACE_EXPIRY (R115). -/
def execGraceExpiry (l : Link) (s : State) : Host.Outcome State Fault Refusal :=
  .next (s.graceExpires l)

end Sys2Proof.Machine
end

