-- ==== Sys2Proof/Machine/Dispatch.lean ====
section
/-! DEFINITION. The dispatch of commands to their meanings, one arm for each constructor of Instr. -/

namespace Sys2Proof.Machine

/-- The effect of a command on everything but the queue of commands. -/
def exec (i : Instr) (s : State) : Host.Outcome State Fault Refusal :=
  match i with
  | .hello l => Sys2Proof.Machine.execHello l s
  | .bye l => Sys2Proof.Machine.execBye l s
  | .openLease l => Sys2Proof.Machine.execOpen l s
  | .renew l => Sys2Proof.Machine.execRenew l s
  | .release l => Sys2Proof.Machine.execRelease l s
  | .changeMode l => Sys2Proof.Machine.execChangeMode l s
  | .read l => Sys2Proof.Machine.execRead l s
  | .write l => Sys2Proof.Machine.execWrite l s
  | .collect l => Sys2Proof.Machine.execCollect l s
  | .queryTarget l => Sys2Proof.Machine.execQueryTarget l s
  | .querySlot l => Sys2Proof.Machine.execQuerySlot l s
  | .queryBus l => Sys2Proof.Machine.execQueryBus l s
  | .queryLink l => Sys2Proof.Machine.execQueryLink l s
  | .queryStart l => Sys2Proof.Machine.execQueryStart l s
  | .setTarget l => Sys2Proof.Machine.execSetTarget l s
  | .dropTarget l => Sys2Proof.Machine.execDropTarget l s
  | .setRights l => Sys2Proof.Machine.execSetRights l s
  | .revoke l => Sys2Proof.Machine.execRevoke l s
  | .busRestore l => Sys2Proof.Machine.execBusRestore l s
  | .saveCatalogue l => Sys2Proof.Machine.execSaveCatalogue l s
  | .restart l => Sys2Proof.Machine.execRestart l s
  | .termExpiry k => Sys2Proof.Machine.execTermExpiry k s
  | .lapseWarning k => Sys2Proof.Machine.execLapseWarning k s
  | .waitExpiry k => Sys2Proof.Machine.execWaitExpiry k s
  | .upgradeWaitExpiry k => Sys2Proof.Machine.execUpgradeWaitExpiry k s
  | .graceExpiry l => Sys2Proof.Machine.execGraceExpiry l s
  | .restartTeardown l lines => Sys2Proof.Machine.execRestartTeardown l lines s
  | .coldStart supen supsel rate lines => Sys2Proof.Machine.execColdStart supen supsel rate lines s
  | .lineBreak l => Sys2Proof.Machine.execLineBreak l s
  | .linkUp l => Sys2Proof.Machine.execLinkUp l s
  | .characterReceived l c => Sys2Proof.Machine.execCharacterReceived l c s
  | .badCharacter l => Sys2Proof.Machine.execBadCharacter l s
  | .gapTimerExpiry l => Sys2Proof.Machine.execGapTimerExpiry l s
  | .transmitFrameStart l holdin => Sys2Proof.Machine.execTransmitFrameStart l holdin s
  | .frameSent l => Sys2Proof.Machine.execFrameSent l s
  | .takeRecord b lines => Sys2Proof.Machine.execTakeRecord b lines s
  | .readOperationEnd b readings lines => Sys2Proof.Machine.execReadOperationEnd b readings lines s
  | .writeSegmentEnd b readings lines => Sys2Proof.Machine.execWriteSegmentEnd b readings lines s
  | .busyPollEnd b readings lines => Sys2Proof.Machine.execBusyPollEnd b readings lines s
  | .addressRetryWaitExpiry b lines => Sys2Proof.Machine.execAddressRetryWaitExpiry b lines s
  | .busyPollWaitExpiry b lines => Sys2Proof.Machine.execBusyPollWaitExpiry b lines s
  | .clockStretchFault b point => Sys2Proof.Machine.execClockStretchFault b point s
  | .lineCheckClockStuck b lines => Sys2Proof.Machine.execLineCheckClockStuck b lines s
  | .recoveryEnd b met lines => Sys2Proof.Machine.execRecoveryEnd b met lines s
  | .unlistedCodeRequest l => Sys2Proof.Machine.execUnlistedCodeRequest l s

end Sys2Proof.Machine
end

