-- ==== Sys2Proof/Safety.lean ====
section
/-! DEFINITION. What counts as a safe state of the controller: the laws that the spec says hold at every
moment between events, and the words that statements about commands are written in. -/

namespace Sys2Proof.Machine

/-! ### Commands and the frames they take -/

/-- The command that takes a frame with the CODE of a request at a link. -/
def Request.command : Request → Link → Instr
  | .hello => .hello | .bye => .bye | .openLease => .openLease | .renew => .renew
  | .release => .release | .changeMode => .changeMode | .read => .read | .write => .write
  | .collect => .collect | .queryTarget => .queryTarget | .querySlot => .querySlot
  | .queryBus => .queryBus | .queryLink => .queryLink | .queryStart => .queryStart
  | .setTarget => .setTarget | .dropTarget => .dropTarget | .setRights => .setRights
  | .revoke => .revoke | .busRestore => .busRestore | .saveCatalogue => .saveCatalogue
  | .restart => .restart

/-- R155, R157: the intake of a link may take the frame `f`, the head of its request queue. -/
abbrev State.Offers (s : State) (l : Link) (f : Frame) (rest : List Frame) : Prop :=
  s.intakeReady l = true ∧ (s.link l).requestQueue = f :: rest

/-- R157: the intake of a link may take `f`, a request that passes its four checks. -/
abbrev State.Admits (s : State) (l : Link) (r : Request) (f : Frame) (rest : List Frame) : Prop :=
  s.Offers l f rest ∧ f.code = r.code ∧ s.part = .ready ∧ r.bodyOk f.body = true ∧
    ((s.session l).isOpen = true ∨ r = .hello) ∧ (r.supervisor = true → s.supervisor = some l)

/-- R153, R157: the state as the taking of the head frame leaves it, before the frame is answered. -/
def State.taking (s : State) (l : Link) (rest : List Frame) : State :=
  s.setLink l ((s.link l).taken rest)

/-- The handle in the first three bytes of a body names this slot by its index and its generation. -/
abbrev State.Names (s : State) (body : List Byte) (i : SlotIx) : Prop :=
  i.val = (byteAt body 0).toNat ∧ (s.slot i).generation = wordAt body 1

/-- The handle in a body names a HELD slot of the session of a link. -/
abbrev State.NamesHeld (s : State) (l : Link) (body : List Byte) (i : SlotIx) (h : HeldSlot) : Prop :=
  s.Names body i ∧ (s.slot i).body = .held h ∧ h.owner = l

/-- R89: where a line check leads an engine: to the bus with a plan, to the recovery, or to the wait for
the clock. -/
def engineAfterCheck (a : Attempt) (plan : BusPlan) : LineLevels → EngineState
  | .bothHigh => .active (.onBus a plan)
  | .dataLow => .recovering (.lineCheck a)
  | .clockLow => .active (.lineWait a)

/-- R92: a stretch is met at this point of an attempt at these elements, `run` having come of it until
then: after the course `whole` of some elements with every byte sent acknowledged, within the next element
`e`, of which `bits` had been read, or, where `e` is a byte sent and refused, in the stop after it. A byte
received has arrived with its eighth bit. -/
abbrev StretchedAt (elements : List BusElement) (point : StretchPoint) (run : BusRun) : Prop :=
  ∃ front e back levels bits whole, elements = front ++ e :: back ∧ point.whole = front.length ∧
    point.readings = levels ++ bits ∧ runElements front levels = some whole ∧ whole.refused = false ∧
    ((bits = [] ∨ (∃ k, e = .receive k) ∧ bits.length < 8) ∧ run = whole ∨
      (∃ k, e = .receive k) ∧ bits.length = 8 ∧
        run = { whole with data := whole.data ++ [byteOfBits bits] } ∨
      (∃ x, e = .send x) ∧ bits = [true] ∧
        run = { whole with given := whole.given ++ [e], refused := true })

/-- The commands of a list, one after the other. -/
def execAll : List Instr → State → Host.Outcome State Fault Refusal
  | [], s => .next s
  | c :: cs, s =>
    match exec c s with
    | .next t => execAll cs t
    | .fault r => .fault r
    | .refused r => .refused r

/-- Is this command COLD_START, the one that no law of the running controller binds? -/
def isColdStart : Instr → Bool
  | .coldStart _ _ _ _ => true
  | _ => false

/-! ### Refusals in the order of their rules -/

/-- R8, R10: the status that refuses OPEN, by the first check that fails; none where OPEN is granted
or waits. -/
def State.openRefusal (s : State) (l : Link) (a : OpenArgs) : Option Status :=
  match (s.entry a.target).body with
  | .absent => some .notarget
  | .retiring _ => some .notarget
  | .present f =>
    if s.permits l f.cls a.mode = false then some .denied
    else if ∃ i, (s.slot i).body.owner? = some l ∧ (s.slot i).body.target? = some a.target then
      some .duplicate
    else if (s.rightsOf l).quota ≤ s.slotCount l then some .overquota
    else if ∀ i, (s.slot i).body ≠ .free then some .full
    else if (s.entry a.target).waitQueue = [] ∧ s.compatible a.target a.mode = true then none
    else if a.wait = 0 then some .contended
    else if f.qlim ≤ s.waitingCount a.target then some .crowded
    else none

/-- R69, checks 2 to 6, for a HELD slot on a target with these fields: the status of the first check
that fails. -/
def State.transactionRefusal (s : State) (kind : TxKind) (h : HeldSlot) (f : TargetFields)
    (offset count : Nat) : Option Status :=
  if kind = .write ∧ h.mode = .shared then some .mode
  else if h.inFlight ≠ none then some .inflight
  else if f.capacity < offset + count ∨ (f.offsetWidth = 0 ∧ offset ≠ 0) then some .bounds
  else if (s.engine f.busIx).state = .fault then some .busfault
  else if 8 ≤ (s.busQueue f.busIx).length ∨ ∀ p, s.record p ≠ none then some .qfull
  else none

/-! ### Laws of the notice unit -/

/-- R126 to R130, R133: a queue of at most 8 notices in order of class, no two of the same kind and
subject; ATTN as R130 gives; nothing kept for a CLOSED session. -/
abbrev NoticeUnit.Lawful (u : NoticeUnit) (session : Session) : Prop :=
  u.queue.length ≤ 8 ∧ u.queue.Pairwise (fun m n => m.cls ≤ n.cls) ∧
    u.queue.Pairwise (fun m n => m.matches n = false) ∧
    (u.attn = true ↔ session.isOpen = true ∧ u.queue ≠ []) ∧
    (session.isClosed = true → u.queue = [] ∧ u.overrun = false)

/-- The notice law holds for every session. -/
abbrev State.NoticeLaw (s : State) : Prop := ∀ l, (s.notice l).Lawful (s.session l)

/-! ### Laws of the lease table and the grant arbiter -/

/-- R27: the holder set of a target is any number of SHARED slots, or one EXCLUSIVE slot alone. -/
abbrev State.HolderLaw (s : State) : Prop :=
  ∀ i j t m n, i ≠ j → (s.slot i).body.holding? = some (t, m) →
    (s.slot j).body.holding? = some (t, n) → m = .shared ∧ n = .shared

/-- R8: no two slots owned by one session refer to the same target. -/
abbrev State.OneSlotLaw (s : State) : Prop :=
  ∀ i j l t, (s.slot i).body.owner? = some l → (s.slot j).body.owner? = some l →
    (s.slot i).body.target? = some t → (s.slot j).body.target? = some t → i = j

/-- R2: every generation is 1 to 65535. -/
abbrev State.GenerationLaw (s : State) : Prop :=
  ∀ i, 1 ≤ (s.slot i).generation ∧ (s.slot i).generation ≤ 65535

/-- R4, R81, R116: a CLOSED session owns no slot, is the destination of no record, and has no
completion waiting. -/
abbrev State.ClosedLaw (s : State) : Prop :=
  ∀ l, (s.session l).isClosed = true →
    (∀ i, (s.slot i).body.owner? ≠ some l) ∧
    (∀ p r, s.record p = some r → r.destination ≠ some l) ∧ s.waitingDone l = []

/-- R29: a slot waits on a target when it is WAITING on it, or HELD on it with an upgrade pending. -/
def SlotBody.waitsOn (b : SlotBody) (t : EntryIx) : Bool :=
  match b with
  | .waiting w => decide (w.target = t)
  | .held h => decide (h.target = t) && h.upgrade.isSome
  | .free => false
  | .ending _ => false

/-- R29, R30, R33: the wait queue of a target holds, once each, the slots that wait on it, an upgrade
waiter at its head; the WAITING ones are at most QLIM; no slot other than FREE refers to an ABSENT
entry, and none but ENDING ones to a RETIRING entry. -/
abbrev State.QueueLaw (s : State) (t : EntryIx) : Prop :=
  (s.entry t).waitQueue.Nodup ∧
    (∀ i, i ∈ (s.entry t).waitQueue ↔ (s.slot i).body.waitsOn t = true) ∧
    (∀ i ∈ (s.entry t).waitQueue.tail, (s.slot i).body.stateName = .waiting) ∧
    match (s.entry t).body with
    | .present f => s.waitingCount t ≤ f.qlim
    | .retiring _ => ∀ i, (s.slot i).body.target? = some t → (s.slot i).body.stateName = .ending
    | .absent => ∀ i, (s.slot i).body.target? ≠ some t

/-- R6, R88, R134, R147, R148: while a restart or a load is in progress the part is STARTING, and a
load runs over a lease table with every slot FREE and no restart left to finish. -/
abbrev State.StartLaw (s : State) : Prop :=
  (s.restart ≠ none → s.part = .starting) ∧
    (s.load ≠ none → s.part = .starting ∧ s.restart = none ∧ ∀ i, (s.slot i).body = .free)

/-- The law of the wait queues, with the law of start-up that keeps the catalogue's entries in step
with the lease table. -/
abbrev State.WaitLaw (s : State) : Prop := (∀ t, s.QueueLaw t) ∧ s.StartLaw

/-! ### Law of the catalogue -/

/-- R49, R50, R52, R54: every entry that is PRESENT or RETIRING has valid fields, no two have the same
bus and address, and every rights record is valid. -/
abbrev State.CatalogueLaw (s : State) : Prop :=
  (∀ t f, (s.entry t).body.fields? = some f → f.valid = true) ∧
    (∀ t u f g, (s.entry t).body.fields? = some f → (s.entry u).body.fields? = some g →
      f.bus = g.bus → f.address = g.address → t = u) ∧
    ∀ l, (s.rightsOf l).valid = true

/-! ### Law of the link units -/

/-- R152: the framer's count of characters. -/
def Framer.lawful : Framer → Bool
  | .hunt => true
  | .length _ => true
  | .content len got _ => decide (2 ≤ len ∧ len ≤ 80 ∧ got.length < len + 2)

/-- R156: the range of the pending-reject count. -/
def rejectLawful : Option (Nat × RejectReason) → Bool
  | none => true
  | some (n, _) => decide (1 ≤ n ∧ n ≤ 255)

/-- R150 to R158: the bounds of a link unit's queues, the level of HOLD, a place given to the intake only
while it has a frame to take, the range of the pending-reject count, and what a DOWN link holds; an OPEN session has its link UP (R108). -/
abbrev LinkUnit.Lawful (u : LinkUnit) (session : Session) : Prop :=
  u.requestQueue.length ≤ 4 ∧ (3 ≤ u.requestQueue.length → u.hold = true) ∧
    (u.requestQueue.length ≤ 1 → u.hold = false) ∧
    (∀ f ∈ u.requestQueue, f.body.length ≤ 78) ∧
    (u.placesTaken ≤ 6 ∧ (u.granted = true → u.requestQueue ≠ [])) ∧
    (u.sending ≠ none → u.outbound ≠ []) ∧
    rejectLawful u.pendingReject = true ∧ u.framer.lawful = true ∧
    (u.line = .down → u.framer = .hunt ∧ u.requestQueue = [] ∧ u.outbound = [] ∧ u.sending = none ∧
      u.reserved = false ∧ u.granted = false ∧ u.pendingReject = none ∧ session.isOpen = false)

/-- The law of the link units holds at every link. -/
abbrev State.LinkLaw (s : State) : Prop := ∀ l, (s.link l).Lawful (s.session l)

/-! ### Law of the bus engines -/

/-- R87, R101: what an engine's state says of its work. -/
def Engine.lawful (e : Engine) : Bool :=
  match e.state with
  | .idle => decide (e.work = .none)
  | .fault => decide (e.work = .none)
  | .active _ => decide (e.work ≠ .none ∧ e.work ≠ .restore)
  | .recovering .restore => decide (e.work = .restore)
  | .recovering _ => decide (e.work ≠ .none ∧ e.work ≠ .restore)

/-- R68, R82, R87, R101: at most 8 records in a bus queue, none while the engine is in FAULT, and the
engine's work as its state says. -/
abbrev State.EngineLaw (s : State) : Prop :=
  ∀ b, (s.engine b).lawful = true ∧ (s.busQueue b).length ≤ 8 ∧
    ((s.engine b).state = .fault → s.busQueue b = [])

/-! ### Law of the transaction unit -/

/-- The record a slot has in flight. -/
def SlotBody.inFlight? : SlotBody → Option PoolIx
  | .held h => h.inFlight
  | .ending e => e.inFlight
  | .free => none
  | .waiting _ => none

/-- The record `p` is in use in this state, on this bus. -/
abbrev State.recordOn (s : State) (p : PoolIx) (x : TxState) (b : BusIx) : Prop :=
  ∃ r, s.record p = some r ∧ r.state = x ∧ r.bus = b

/-- R66 to R68, R77, R88: a QUEUED record stands once in the queue of its bus and nowhere else, an
ACTIVE one is the work of its engine, and a DONE one waits, once, for a place at the link of its
destination. -/
abbrev State.RecordLaw (s : State) : Prop :=
  (∀ b, (s.busQueue b).Nodup ∧ ∀ p, p ∈ s.busQueue b ↔ s.recordOn p .queued b) ∧
    (∀ b p, (s.engine b).work = .record p ↔ s.recordOn p .active b) ∧
    (∀ l, (s.waitingDone l).Nodup ∧ ∀ p, p ∈ s.waitingDone l ↔
      ∃ r, s.record p = some r ∧ r.state = .done ∧ r.destination = some l) ∧
    ∀ p r, s.record p = some r → r.state = .done → r.destination ≠ none

/-- R23, R70, R76, R81: a slot's transaction in flight is a record that is not DONE, that carries the
slot's handle and has the slot's owner as its destination, and the other way about; an ENDING slot has
one, which is ACTIVE and stop-requested. -/
abbrev State.FlightLaw (s : State) : Prop :=
  (∀ i p, (s.slot i).body.inFlight? = some p → ∃ r, s.record p = some r ∧ r.state ≠ .done ∧
    r.handle = some ⟨i, (s.slot i).generation⟩ ∧ r.destination = (s.slot i).body.owner?) ∧
  (∀ p r h, s.record p = some r → r.state ≠ .done → r.handle = some h →
    (s.slot h.slot).body.inFlight? = some p ∧ (s.slot h.slot).generation = h.generation) ∧
  ∀ i e, (s.slot i).body = .ending e →
    ∃ p r, e.inFlight = some p ∧ s.record p = some r ∧ r.state = .active ∧ r.stopRequested = true

/-- R66, R70, R143, R145: a STORE record carries no handle, a READ or WRITE carries one, and the save
job is the STORE record in use, if there is one. -/
abbrev State.StoreLaw (s : State) : Prop :=
  (∀ p r, s.record p = some r → (r.kind = .store ↔ r.handle = none)) ∧
    ∀ p, s.saveJob = some p ↔ ∃ r, s.record p = some r ∧ r.kind = .store

/-- The law of the transaction unit: of its records, of the slots they belong to, and of the save. -/
abbrev State.TransactionLaw (s : State) : Prop := s.RecordLaw ∧ s.FlightLaw ∧ s.StoreLaw

end Sys2Proof.Machine
end

