-- ==== Sys2Proof/Certificates/Slice0/Obligations.lean ====
section
/-! DEFINITION. The statements about the controller, for the provers: what each command does, by the
rules of spec/, and the laws that every step keeps. -/

open Sys2Proof Sys2Proof.Machine

/-! ### The step and the commands as a whole -/

/-- A step takes the command at the front of the queue and gives its effect with the rest of the queue.
On an empty queue the timebase ticks (the model's choice, notes/assumptions/1.md), or, where an engine
waits for its clock in a line check, a free value says whether it ticks or a clock goes high there, and
with which level of the data line the check then goes on (R89; notes/assumptions/6.md). -/
def Obligations.StepTakesFrontCommand : Prop :=
  (∀ (s : State) (c : Instr) (rest : List Instr), s.pending = c :: rest →
    step s = exec c { s with pending := rest }) ∧
  (∀ s : State, s.pending = [] → (∀ b a, (s.engine b).state ≠ .active (.lineWait a)) →
    step s = .next { s with now := s.now + 1 }) ∧
  ∀ (s : State) (b : BusIx) (a : Attempt), s.pending = [] →
    (s.engine b).state = .active (.lineWait a) →
    let v := { s with freeCount := s.freeCount + 1 }
    ∃ t, step s = .next t ∧ (t = { v with now := s.now + 1 } ∨ t = v ∨
      ∃ c x lines, (s.engine c).state = .active (.lineWait x) ∧ lines ≠ .clockLow ∧
        t = v.setEngine c { s.engine c with state := engineAfterCheck x (s.planFor c x) lines })

/-- Every command answers a next state in every state: none stops the controller, and one whose event
cannot happen changes nothing (the model's choice, notes/assumptions/3.md). No command touches the queue
of commands or takes the time back, COLD_START among them (the model's choice, notes/assumptions/13.md),
and none but COLD_START samples the straps (R136). -/
def Obligations.EveryCommandCompletes : Prop :=
  ∀ (c : Instr) (s : State), ∃ t, exec c s = .next t ∧ t.pending = s.pending ∧ s.now ≤ t.now ∧
    (isColdStart c = false → t.supervisor = s.supervisor ∧ t.rate = s.rate)

/-! ### Sessions (Section 6) -/

/-- R109: HELLO by the state of the session and the key. A session that is CLOSED owns no slot
(`State.ClosedLaw`), so the counts of a newly opened one are 0. -/
def Obligations.HelloByTable : Prop :=
  ∀ (s : State) (l : Link) (f : Frame) (rest : List Frame), s.Admits l .hello f rest → s.ClosedLaw →
    let u := s.taking l rest
    let key := wordAt f.body 0
    let count := byteOf (s.slotCount l)
    let notices := byteOf (s.notice l).queue.length
    exec (.hello l) s = .next (
      if key = 0 then u.answer l f.tag .badreq []
      else match s.session l with
        | .closed =>
          ((u.setNotice l ⟨[], false, false⟩).setSession l (.opened key)).answer l f.tag .ok [0, 0, 0]
        | .opened held =>
          if held = key then u.answer l f.tag .ok [0, count, notices]
          else ((u.teardown l).setSession l (.opened key)).answer l f.tag .ok [0, 0, 0]
        | .suspended held _ =>
          if held = key then
            ((u.setSession l (.opened key)).setNotice l { s.notice l with
              attn := !(s.notice l).queue.isEmpty }).answer l f.tag .ok [1, count, notices]
          else ((u.teardown l).setSession l (.opened key)).answer l f.tag .ok [0, 0, 0])

/-- R112: BYE: the OK response enters the outbound queue first, the session is then torn down, and the
outbound queue keeps its frames. -/
def Obligations.ByeEndsSession : Prop :=
  ∀ (s : State) (l : Link) (f : Frame) (rest : List Frame), s.Admits l .bye f rest →
    ∃ t, exec (.bye l) s = .next t ∧ t = ((s.taking l rest).answer l f.tag .ok []).teardown l ∧
      t.session l = .closed ∧ (t.link l).outbound = (s.link l).outbound ++ [⟨f.tag, .ok, []⟩]

/-- R116, R117, R81: what a teardown leaves: the session CLOSED with nothing of its own, its slots FREE
or ENDING and detached, its records freed or left to run with no destination, and everything of other
sessions but what a grant pass gives them. The pass has run on each target whose WAITING head or holder
left or whose upgrade waiter stopped waiting (R40): the head of its queue cannot be granted. -/
def Obligations.TeardownLeavesNothing : Prop :=
  ∀ (s : State) (l : Link), s.TransactionLaw →
    let t := s.teardown l
    t.session l = .closed ∧ t.notice l = ⟨[], false, false⟩ ∧ t.waitingDone l = [] ∧
    (∀ k, k ≠ l → t.session k = s.session k ∧ t.waitingDone k = s.waitingDone k) ∧
    t.links = s.links ∧ t.engines = s.engines ∧ t.rights = s.rights ∧
    (∀ e, (t.entry e).body = (s.entry e).body) ∧
    (∀ i, (t.slot i).generation = (s.slot i).generation ∧
      match (s.slot i).body with
      | .free => (t.slot i).body = .free
      | .waiting w => if w.owner = l then (t.slot i).body = .free
          else (t.slot i).body = .waiting w ∨ ∃ h, (t.slot i).body = .held h ∧ h.owner = w.owner ∧
            h.target = w.target ∧ h.mode = w.mode
      | .held h => if h.owner = l then
            (t.slot i).body = match s.flight h.inFlight with
              | .active _ => .ending ⟨none, h.target, h.mode, h.inFlight, .session⟩
              | _ => .free
          else (t.slot i).body = .held h ∨ h.upgrade ≠ none ∧
            (t.slot i).body = .held { h with mode := .exclusive, upgrade := none }
      | .ending e => (t.slot i).body =
            .ending (if e.owner = some l then { e with owner := none } else e)) ∧
    (∀ b, t.busQueue b = (s.busQueue b).filter fun p => match s.record p with
      | some r => !(decide (r.destination = some l ∧ r.kind ≠ .store))
      | none => true) ∧
    (∀ p, t.record p = match s.record p with
      | none => none
      | some r => if r.destination ≠ some l then some r
          else match r.state, r.kind with
            | .done, _ => none
            | .queued, .store => some { r with destination := none }
            | .queued, _ => none
            | .active, .store => some { r with destination := none }
            | .active, _ => some { r with destination := none, stopRequested := true }) ∧
    (s.WaitLaw → ∀ x : EntryIx,
      ((∃ j w, (s.slot j).body = .waiting w ∧ w.owner = l ∧ w.target = x ∧
          (s.entry x).waitQueue.head? = some j) ∨
        ∃ j h, (s.slot j).body = .held h ∧ h.owner = l ∧ h.target = x ∧
          (h.upgrade ≠ none ∨ ∀ p, s.flight h.inFlight ≠ .active p)) →
      ∀ i rest, (t.entry x).waitQueue = i :: rest →
        (∀ w, (t.slot i).body = .waiting w → t.compatible x w.mode = false) ∧
        ∀ h, (t.slot i).body = .held h → t.onlyHolder x i = false)

/-! ### Leases (Section 1) -/

/-- R9: OPEN granted at once in the lowest-numbered FREE slot, with the lapse warning where it is due. -/
def Obligations.OpenGranted : Prop :=
  ∀ (s : State) (l : Link) (f : Frame) (rest : List Frame) (a : OpenArgs) (fields : TargetFields)
    (i : SlotIx), s.Admits l .openLease f rest → openArgs f.body = some a →
    (s.entry a.target).body = .present fields → s.openRefusal l a = none →
    (s.entry a.target).waitQueue = [] → s.compatible a.target a.mode = true →
    (s.slot i).body = .free → (∀ j, j < i → (s.slot j).body ≠ .free) →
    let term := (if a.term = 0 then fields.defaultTerm else min a.term fields.maxTerm) * 10
    let due := decide (0 < fields.warnTime ∧ term ≤ fields.warnTime * 10)
    let g := if (s.slot i).generation = 65535 then 1 else (s.slot i).generation + 1
    let v := (s.taking l rest).setSlot i
      ⟨g, .held ⟨l, a.target, a.mode, term, s.now + term, none, due, none⟩⟩
    exec (.openLease l) s = .next
      ((if due then v.offerNotice l ⟨.handle i.val g, .lapsing (term / 10)⟩ else v).answer l f.tag .ok
        ([byteOf i.val, byteOf (g / 256), byteOf g] ++ wordBytes (term / 10)))

/-- R10, case 3: an OPEN that cannot be granted at once waits at the tail of the target's queue. -/
def Obligations.OpenWaits : Prop :=
  ∀ (s : State) (l : Link) (f : Frame) (rest : List Frame) (a : OpenArgs) (fields : TargetFields)
    (i : SlotIx), s.Admits l .openLease f rest → openArgs f.body = some a →
    (s.entry a.target).body = .present fields → s.openRefusal l a = none →
    ¬ ((s.entry a.target).waitQueue = [] ∧ s.compatible a.target a.mode = true) →
    (s.slot i).body = .free → (∀ j, j < i → (s.slot j).body ≠ .free) →
    let term := (if a.term = 0 then fields.defaultTerm else min a.term fields.maxTerm) * 10
    let g := if (s.slot i).generation = 65535 then 1 else (s.slot i).generation + 1
    exec (.openLease l) s = .next
      ((((s.taking l rest).setSlot i
        ⟨g, .waiting ⟨l, a.target, a.mode, term, s.now + a.wait * 10⟩⟩).setWaitQueue a.target
          ((s.entry a.target).waitQueue ++ [i])).answer l f.tag .waiting
            [byteOf i.val, byteOf (g / 256), byteOf g])

/-- R7, R8, R10: the refusals of OPEN: BADREQ for its fields, then the first check of
`State.openRefusal` that fails; nothing else changes. -/
def Obligations.OpenRefused : Prop :=
  ∀ (s : State) (l : Link) (f : Frame) (rest : List Frame), s.Admits l .openLease f rest →
    (31 < (byteAt f.body 0).toNat ∨ 1 < (byteAt f.body 1).toNat ∨ 60000 < wordAt f.body 2 ∨
        6000 < wordAt f.body 4 →
      exec (.openLease l) s = .next ((s.taking l rest).answer l f.tag .badreq [])) ∧
    ∀ (a : OpenArgs) (status : Status), a.target.val = (byteAt f.body 0).toNat →
      byteAt f.body 1 = a.mode.code → wordAt f.body 2 = a.term → wordAt f.body 4 = a.wait →
      a.term ≤ 60000 → a.wait ≤ 6000 → s.openRefusal l a = some status →
      exec (.openLease l) s = .next ((s.taking l rest).answer l f.tag status [])

/-- R3: the handle checks of RENEW, RELEASE, CHANGE-MODE, READ and WRITE, once the request's own fields
are in range: STALE, ENDED, and NOTHELD for all of them but RELEASE (R13, R16). -/
def Obligations.HandleChecks : Prop :=
  ∀ (s : State) (l : Link) (r : Request) (f : Frame) (rest : List Frame),
    r ∈ [Request.renew, .release, .changeMode, .read, .write] → s.Admits l r f rest →
    (r = .renew → wordAt f.body 3 ≤ 60000) →
    (r = .changeMode → (byteAt f.body 3).toNat ≤ 1 ∧ wordAt f.body 4 ≤ 6000) →
    let refused := fun status => exec (r.command l) s = .next ((s.taking l rest).answer l f.tag status [])
    ((∀ i, s.Names f.body i → (s.slot i).body.owner? ≠ some l) → refused .stale) ∧
    (∀ i e, s.Names f.body i → (s.slot i).body = .ending e → e.owner = some l → refused .ended) ∧
    (∀ i w, s.Names f.body i → (s.slot i).body = .waiting w → w.owner = l → r ≠ .release →
      refused .notheld)

/-- R13: RENEW of a HELD lease restarts its term from the time of the request; a term above 60000 units
is BADREQ. -/
def Obligations.RenewHeld : Prop :=
  ∀ (s : State) (l : Link) (f : Frame) (rest : List Frame), s.Admits l .renew f rest →
    (60000 < wordAt f.body 3 →
      exec (.renew l) s = .next ((s.taking l rest).answer l f.tag .badreq [])) ∧
    ∀ (i : SlotIx) (h : HeldSlot) (fields : TargetFields), wordAt f.body 3 ≤ 60000 →
      s.NamesHeld l f.body i h → (s.entry h.target).body.fields? = some fields →
      let term := (if wordAt f.body 3 = 0 then fields.defaultTerm
        else min (wordAt f.body 3) fields.maxTerm) * 10
      let due := decide (0 < fields.warnTime ∧ term ≤ fields.warnTime * 10)
      let v := (s.taking l rest).setBody i (.held { h with
        requestedTerm := term, termDeadline := s.now + term, lapseWarned := due })
      exec (.renew l) s = .next
        ((if due then v.offerNotice l ⟨.handle i.val (s.slot i).generation, .lapsing (term / 10)⟩
          else v).answer l f.tag .ok (wordBytes (term / 10)))

/-- R16: RELEASE by the state of the slot. -/
def Obligations.ReleaseByState : Prop :=
  ∀ (s : State) (l : Link) (f : Frame) (rest : List Frame) (i : SlotIx), s.Admits l .release f rest →
    s.Names f.body i →
    let u := s.taking l rest
    let left := fun t => (u.setBody i .free).setWaitQueue t
      ((s.entry t).waitQueue.filter fun j => decide (j ≠ i))
    (∀ w, (s.slot i).body = .waiting w → w.owner = l →
      exec (.release l) s = .next ((if (s.entry w.target).waitQueue.head? = some i
        then (left w.target).grantPass w.target else left w.target).answer l f.tag .ok [])) ∧
    (∀ h, (s.slot i).body = .held h → h.owner = l →
      exec (.release l) s = .next (
        if h.inFlight = none then ((left h.target).grantPass h.target).answer l f.tag .ok []
        else u.answer l f.tag .inflight [])) ∧
    (∀ e, (s.slot i).body = .ending e → e.owner = some l →
      exec (.release l) s = .next (u.answer l f.tag .ended []))

/-- R18, R19: CHANGE-MODE: the refusals BADREQ and INFLIGHT, and the change to SHARED. -/
def Obligations.ChangeModeToShared : Prop :=
  ∀ (s : State) (l : Link) (f : Frame) (rest : List Frame), s.Admits l .changeMode f rest →
    let u := s.taking l rest
    (1 < (byteAt f.body 3).toNat ∨ 6000 < wordAt f.body 4 →
      exec (.changeMode l) s = .next (u.answer l f.tag .badreq [])) ∧
    ∀ (i : SlotIx) (h : HeldSlot), s.NamesHeld l f.body i h → wordAt f.body 4 ≤ 6000 →
      ((byteAt f.body 3).toNat ≤ 1 → h.inFlight ≠ none →
        exec (.changeMode l) s = .next (u.answer l f.tag .inflight [])) ∧
      (byteAt f.body 3 = 0 → h.inFlight = none →
        exec (.changeMode l) s = .next (
          (match h.mode, h.upgrade with
            | .exclusive, _ => (u.setBody i (.held { h with mode := .shared })).grantPass h.target
            | .shared, some _ => ((u.setBody i (.held { h with upgrade := none })).setWaitQueue h.target
                ((s.entry h.target).waitQueue.filter fun j => decide (j ≠ i))).grantPass h.target
            | .shared, none => u).answer l f.tag .ok []))

/-- R20: CHANGE-MODE to EXCLUSIVE of a HELD slot with nothing in flight: the first of the seven checks
that applies. -/
def Obligations.ChangeModeToExclusive : Prop :=
  ∀ (s : State) (l : Link) (f : Frame) (rest : List Frame) (i : SlotIx) (h : HeldSlot)
    (fields : TargetFields), s.Admits l .changeMode f rest → byteAt f.body 3 = 1 →
    wordAt f.body 4 ≤ 6000 → s.NamesHeld l f.body i h → h.inFlight = none →
    (s.entry h.target).body.fields? = some fields →
    let u := s.taking l rest
    (s.otherUpgrade h.target i = true ↔
      ∃ j k, j ≠ i ∧ (s.slot j).body = .held k ∧ k.target = h.target ∧ k.upgrade ≠ none) ∧
    exec (.changeMode l) s = .next (
      if (s.rightsOf l).exclusiveMask.getLsbD fields.cls = false then u.answer l f.tag .denied []
      else if h.mode = .exclusive then u.answer l f.tag .ok []
      else if s.onlyHolder h.target i = true then
        (u.setBody i (.held { h with mode := .exclusive })).answer l f.tag .ok []
      else if s.otherUpgrade h.target i = true then u.answer l f.tag .conflict []
      else if h.upgrade ≠ none then u.answer l f.tag .waiting []
      else if wordAt f.body 4 = 0 then u.answer l f.tag .contended []
      else ((u.setBody i (.held { h with upgrade := some (s.now + wordAt f.body 4 * 10) })).setWaitQueue
        h.target (i :: (s.entry h.target).waitQueue)).answer l f.tag .waiting [])

/-- The three ways a lease ends that is not released, by its transaction in flight (R14, R21, R59), up to
the grant pass: what becomes of a state `s` whose slot `i` is HELD as `h`. -/
def Obligations.LeaseEndsByFlight : Prop :=
  ∀ (s : State) (i : SlotIx) (h : HeldSlot) (e : LeaseEnd),
    let subject := Subject.handle i.val (s.slot i).generation
    let q := (s.entry h.target).waitQueue.filter fun j => decide (j ≠ i)
    (h.inFlight = none → s.endLease i h e =
      ((s.setBody i .free).setWaitQueue h.target q).offerNotice h.owner ⟨subject, e.detail .free⟩) ∧
    (∀ p r, h.inFlight = some p → s.record p = some r → r.state = .queued →
      let v := (s.setBusQueue r.bus ((s.busQueue r.bus).filter fun x => decide (x ≠ p))).complete p
        e.status 0
      s.endLease i h e = ((v.setBody i .free).setWaitQueue h.target
        ((v.entry h.target).waitQueue.filter fun j => decide (j ≠ i))).offerNotice h.owner
          ⟨subject, e.detail .free⟩) ∧
    (∀ p r, h.inFlight = some p → s.record p = some r → r.state = .active →
      s.endLease i h e = (((s.setBody i (.ending ⟨some h.owner, h.target, h.mode, some p, e.cause⟩
        )).setWaitQueue h.target q).setRecord p (some { r with stopRequested := true })).offerNotice
          h.owner ⟨subject, e.detail .ending⟩)

/-- R21: REVOKE by the state of the slot; a HELD lease ends with status and cause REVOKED, the grant pass
runs but where the transaction is ACTIVE with no upgrade pending, and the response gives the state
left. Where the event has handed completions to the same link, the place of the response among them is
free (notes/assumptions/9.md). That a completion of the event finds the place of this response reserved
since the request was taken is the model's reading (notes/assumptions/12.md). -/
def Obligations.RevokeByState : Prop :=
  ∀ (s : State) (l : Link) (f : Frame) (rest : List Frame), s.Admits l .revoke f rest →
    let u := s.taking l rest
    let refused := fun status => exec (.revoke l) s = .next (u.answer l f.tag status [])
    (47 < (byteAt f.body 0).toNat → refused .badreq) ∧
    ∀ i : SlotIx, i.val = (byteAt f.body 0).toNat →
      ((s.slot i).generation ≠ wordAt f.body 1 ∨ (s.slot i).body = .free → refused .stale) ∧
      ((s.slot i).generation = wordAt f.body 1 →
        (∀ e, (s.slot i).body = .ending e → refused .ended) ∧
        (∀ w, (s.slot i).body = .waiting w → refused .notheld) ∧
        ∀ h, (s.slot i).body = .held h →
          let v := u.endLease i h ⟨.revoked, .revoked, .revoked .supervisor⟩
          let before := (s.link l).outbound.length
          (h.inFlight = none →
            exec (.revoke l) s = .next ((v.grantPass h.target).answer l f.tag .ok [0])) ∧
          (∀ p r, h.inFlight = some p → s.record p = some r → r.state = .queued →
            exec (.revoke l) s = .next ((v.grantPass h.target).answerAmong before l f.tag .ok [0])) ∧
          (∀ p r, h.inFlight = some p → s.record p = some r → r.state = .active →
            exec (.revoke l) s = .next ((if h.upgrade = none then v
              else v.grantPass h.target).answer l f.tag .ok [3]))) ∧
    ∀ (v : State) (before : Nat) (status : Status) (body : List Byte),
      before ≤ (v.link l).outbound.length →
      ∃ k n, before ≤ k ∧ k ≤ (v.link l).outbound.length ∧
        v.answerAmong before l f.tag status body = (v.setLink l { v.link l with
          outbound := (v.link l).outbound.take k ++ [⟨f.tag, status, body⟩] ++
            (v.link l).outbound.drop k, reserved := false }).setFreeCount n

/-- R14: the term timer of a HELD slot runs out: the lease ends with status and cause LAPSED; the grant
pass runs but where the transaction is ACTIVE with no upgrade pending. That the command brings the time
to the deadline is the model's choice (notes/assumptions/2.md). -/
def Obligations.TermExpires : Prop :=
  ∀ (s : State) (i : SlotIx) (h : HeldSlot), (s.slot i).body = .held h →
    let v := (s.advanceTo h.termDeadline).endLease i h ⟨.lapsed, .lapsed, .lapsed⟩
    (h.inFlight = none → exec (.termExpiry i) s = .next (v.grantPass h.target)) ∧
    (∀ p r, h.inFlight = some p → s.record p = some r → r.state = .queued →
      exec (.termExpiry i) s = .next (v.grantPass h.target)) ∧
    (∀ p r, h.inFlight = some p → s.record p = some r → r.state = .active →
      exec (.termExpiry i) s = .next (if h.upgrade = none then v else v.grantPass h.target))

/-- R25, R24, R2: no event but cold start does more to an ENDING slot than to detach it or to make it FREE,
and that only at the completion of its transaction: its record was ACTIVE, and any record left in its
place that carries the slot's handle is DONE. None changes a slot's generation, save that it advances by
one, 65535 to 1, when the slot leaves FREE. -/
def Obligations.SlotsKeepTheirCourse : Prop :=
  ∀ (c : Instr) (s t : State) (i : SlotIx), isColdStart c = false → exec c s = .next t →
    (∀ e, (s.slot i).body = .ending e → (t.slot i).body = .ending e ∨
      (t.slot i).body = .ending { e with owner := none } ∨ (t.slot i).body = .free) ∧
    (s.TransactionLaw → ∀ e, (s.slot i).body = .ending e → (t.slot i).body = .free →
      ∃ p r, e.inFlight = some p ∧ s.record p = some r ∧ r.state = .active ∧
        r.handle = some ⟨i, (s.slot i).generation⟩ ∧
        ∀ r', t.record p = some r' → r'.handle = r.handle → r'.state = .done) ∧
    (t.slot i).generation =
      if (s.slot i).body = .free ∧ (t.slot i).body ≠ .free then
        if (s.slot i).generation = 65535 then 1 else (s.slot i).generation + 1
      else (s.slot i).generation

/-! ### The grant arbiter (Section 2) -/

/-- R34, R35: the holder set by its members: which requests are compatible with it, when a slot is its
only member, and the immediate-grant test of OPEN. -/
def Obligations.CompatibilityByHolders : Prop :=
  ∀ (s : State) (t : EntryIx) (i : SlotIx) (m : Mode),
    (s.compatible t .shared = true ↔ ∀ j n, (s.slot j).body.holding? = some (t, n) → n = .shared) ∧
    (s.compatible t .exclusive = true ↔ ∀ j n, (s.slot j).body.holding? ≠ some (t, n)) ∧
    (s.onlyHolder t i = true ↔
      ∀ j, (∃ n, (s.slot j).body.holding? = some (t, n)) ↔ j = i) ∧
    (s.grantableAtOnce t m = true ↔ (s.entry t).waitQueue = [] ∧ s.compatible t m = true)

/-- R37, R38, R39, R45: one turn of the grant pass: it ends at an empty queue or at a head that is not
compatible; else it grants the head, gives its notices, and goes on with the next. -/
def Obligations.GrantPassByRule : Prop :=
  ∀ (s : State) (t : EntryIx),
    ((s.entry t).waitQueue = [] → s.grantPass t = s) ∧
    (∀ i rest w, (s.entry t).waitQueue = i :: rest → (s.slot i).body = .waiting w → w.target = t →
      let subject := Subject.handle i.val (s.slot i).generation
      let term := w.requestedTerm
      let due := decide (0 < s.warnMs t ∧ term ≤ s.warnMs t)
      let v := ((s.setWaitQueue t rest).setBody i
        (.held ⟨w.owner, t, w.mode, term, s.now + term, none, due, none⟩)).offerNotice w.owner
          ⟨subject, .granted w.mode false (term / 10)⟩
      s.grantPass t = if s.compatible t w.mode = true then
        (if due then v.offerNotice w.owner ⟨subject, .lapsing (term / 10)⟩ else v).grantPass t
        else s) ∧
    (∀ i rest h d, (s.entry t).waitQueue = i :: rest → (s.slot i).body = .held h → h.target = t →
      h.upgrade = some d →
      let v := ((s.setWaitQueue t rest).setBody i
        (.held { h with mode := .exclusive, upgrade := none })).offerNotice h.owner
          ⟨.handle i.val (s.slot i).generation,
            .granted .exclusive true ((h.termDeadline - s.now) / 10)⟩
      s.grantPass t = if s.onlyHolder t i = true then v.grantPass t else s)

/-- R37: what a grant pass leaves: the slots granted are those at the front of the queue, every other
slot and entry is as it was, the rest of the queue keeps its order, its head cannot be granted, and
nothing but slots, that queue and notices is touched. -/
def Obligations.GrantPassSettlesQueue : Prop :=
  ∀ (s : State) (t : EntryIx), s.QueueLaw t →
    let v := s.grantPass t
    (∃ k, (v.entry t).waitQueue = (s.entry t).waitQueue.drop k ∧
      (∀ i, i ∉ (s.entry t).waitQueue.take k → v.slot i = s.slot i) ∧
      ∀ i ∈ (s.entry t).waitQueue.take k, (v.slot i).generation = (s.slot i).generation ∧
        ∃ h, (v.slot i).body = .held h ∧ h.target = t ∧ h.upgrade = none) ∧
    (∀ i rest, (v.entry t).waitQueue = i :: rest →
      (∀ w, (v.slot i).body = .waiting w → v.compatible t w.mode = false) ∧
      (∀ h, (v.slot i).body = .held h → v.onlyHolder t i = false)) ∧
    (v.entry t).body = (s.entry t).body ∧ (∀ x, x ≠ t → v.entry x = s.entry x) ∧
    v.links = s.links ∧ v.pool = s.pool ∧ v.engines = s.engines ∧ v.sessions = s.sessions ∧
    v.rights = s.rights ∧ v.now = s.now

/-- R12, R43, R44, R115: the lapse warning of a HELD slot falls due; the wait timers of a WAITING slot and
of an upgrade waiter run out; the grace timer of a SUSPENDED session runs out. The time is brought to the
deadline (notes/assumptions/2.md). -/
def Obligations.TimersRunOut : Prop :=
  ∀ (s : State) (i : SlotIx) (l : Link),
    let at_ := fun deadline => { s with now := max s.now deadline }
    let subject := Subject.handle i.val (s.slot i).generation
    let left := fun t => (s.entry t).waitQueue.filter fun j => decide (j ≠ i)
    (∀ h, (s.slot i).body = .held h → h.lapseWarned = false → 0 < s.warnMs h.target →
      let due := h.termDeadline - s.warnMs h.target
      exec (.lapseWarning i) s = .next (((at_ due).setBody i
        (.held { h with lapseWarned := true })).offerNotice h.owner
          ⟨subject, .lapsing ((h.termDeadline - max s.now due) / 10)⟩)) ∧
    (∀ w, (s.slot i).body = .waiting w →
      let v := (((at_ w.waitDeadline).setBody i .free).setWaitQueue w.target
        (left w.target)).offerNotice w.owner ⟨subject, .waitEnded .expired false w.mode⟩
      exec (.waitExpiry i) s = .next (if (s.entry w.target).waitQueue.head? = some i
        then v.grantPass w.target else v)) ∧
    (∀ h d, (s.slot i).body = .held h → h.upgrade = some d →
      exec (.upgradeWaitExpiry i) s = .next (((((at_ d).setBody i
        (.held { h with upgrade := none })).setWaitQueue h.target (left h.target)).offerNotice h.owner
          ⟨subject, .waitEnded .expired true .exclusive⟩).grantPass h.target)) ∧
    ∀ key d, s.session l = .suspended key d →
      exec (.graceExpiry l) s = .next ((at_ d).teardown l)

/-! ### The target catalogue (Section 3) -/

/-- R50: a set of target fields is valid when every one of the seven conditions holds. -/
def Obligations.FieldsValidByRule : Prop :=
  ∀ f : TargetFields, f.valid = true ↔
    (f.bus = 0 ∨ f.bus = 1) ∧ (f.speed = 0 ∨ f.speed = 1) ∧
    (f.offsetWidth = 0 ∨ f.offsetWidth = 1 ∨ f.offsetWidth = 2) ∧
    0x08 ≤ f.address ∧ f.address ≤ 0x77 ∧ ¬ (f.bus = 0 ∧ f.address = 0x53) ∧
    (f.offsetWidth = 0 → f.capacityM1 + 1 ≤ 64) ∧ (f.offsetWidth = 1 → f.capacityM1 + 1 ≤ 256) ∧
    f.capacityM1 ≤ 65535 ∧ f.pageCode ≤ 7 ∧ 2 ^ f.pageCode ≤ f.capacityM1 + 1 ∧
    f.pollLimit ≤ 50 ∧ f.retryLimit ≤ 7 ∧ f.cls ≤ 7 ∧ f.qlim ≤ 12 ∧
    1 ≤ f.maxTerm ∧ f.maxTerm ≤ 60000 ∧ 1 ≤ f.defaultTerm ∧ f.defaultTerm ≤ f.maxTerm ∧
    f.warnTime ≤ 6000

/-- R56: SET-TARGET by its three checks in order; an accepted one makes the entry PRESENT with the new
fields and an empty queue. -/
def Obligations.SetTargetByChecks : Prop :=
  ∀ (s : State) (l : Link) (f : Frame) (rest : List Frame), s.Admits l .setTarget f rest →
    let u := s.taking l rest
    let new := fieldsAt f.body 1
    let refused := fun status => exec (.setTarget l) s = .next (u.answer l f.tag status [])
    (31 < (byteAt f.body 0).toNat ∨ new.valid = false → refused .badreq) ∧
    ∀ t : EntryIx, t.val = (byteAt f.body 0).toNat → new.valid = true →
      let clash := ∃ x g, x ≠ t ∧ (s.entry x).body.fields? = some g ∧ g.bus = new.bus ∧
        g.address = new.address
      let used := ∃ i, (s.slot i).body.target? = some t
      (clash → refused .clash) ∧
      (¬ clash → (∃ g, (s.entry t).body = .retiring g) ∨
        (∃ g, (s.entry t).body = .present g) ∧ used → refused .inuse) ∧
      (¬ clash → (s.entry t).body = .absent ∨ (∃ g, (s.entry t).body = .present g) ∧ ¬ used →
        exec (.setTarget l) s = .next ((u.setEntry t ⟨.present new, []⟩).answer l f.tag .ok []))

/-- R58, R59, R60: DROP-TARGET by the state of the entry. On a PRESENT one each slot is treated in its
turn: a WAITING one becomes FREE with WAIT-ENDED, reason DROPPED, a HELD one ends as
`Obligations.LeaseEndsByFlight` says with status REVOKED, cause and reason DROPPED, any other stays; the
entry becomes RETIRING or ABSENT, and the response counts the slots that were WAITING or HELD on it. The
place of the response among completions handed to the same link is free (notes/assumptions/9.md), and
those completions find that place reserved since the request was taken (the model's reading,
notes/assumptions/12.md). -/
def Obligations.DropTargetByState : Prop :=
  (∀ (s : State) (l : Link) (f : Frame) (rest : List Frame), s.Admits l .dropTarget f rest →
    let u := s.taking l rest
    (31 < (byteAt f.body 0).toNat → exec (.dropTarget l) s = .next (u.answer l f.tag .badreq [])) ∧
    ∀ t : EntryIx, t.val = (byteAt f.body 0).toNat →
      ((s.entry t).body = .absent → exec (.dropTarget l) s = .next (u.answer l f.tag .notarget [])) ∧
      (∀ g, (s.entry t).body = .retiring g →
        exec (.dropTarget l) s = .next (u.answer l f.tag .ok [0])) ∧
      ∀ g, (s.entry t).body = .present g →
        exec (.dropTarget l) s = .next
          (((slotIndices.foldl (State.dropSlot t) u).retire t g).answerAmong
            (s.link l).outbound.length l f.tag .ok
            [byteOf (slotIndices.countP fun i => decide ((s.slot i).body.target? = some t ∧
              (s.slot i).body.stateName ≠ .ending))])) ∧
  ∀ (s : State) (t : EntryIx) (i : SlotIx),
    (∀ w, (s.slot i).body = .waiting w → w.target = t → State.dropSlot t s i =
      ((s.setBody i .free).setWaitQueue t ((s.entry t).waitQueue.filter fun j => decide (j ≠ i))
        ).offerNotice w.owner ⟨.handle i.val (s.slot i).generation, .waitEnded .dropped false w.mode⟩) ∧
    (∀ h, (s.slot i).body = .held h → h.target = t →
      State.dropSlot t s i = s.endLease i h ⟨.revoked, .dropped, .revoked .dropped⟩) ∧
    ((s.slot i).body.target? ≠ some t ∨ (∃ e, (s.slot i).body = .ending e) →
      State.dropSlot t s i = s)

/-- R59, R60: what DROP-TARGET leaves of a PRESENT entry and of the slots on it, from a state in which
the transaction unit's law holds: WAITING and HELD slots become FREE, or ENDING with cause DROPPED where
their record is ACTIVE, everything of other entries stays, and the entry is RETIRING where a slot is
ENDING on it and ABSENT where none is, with an empty queue. -/
def Obligations.DropTargetLeaves : Prop :=
  ∀ (s : State) (t : EntryIx) (g : TargetFields), s.TransactionLaw → (s.entry t).body = .present g →
    let v := s.dropPresent t g
    (∀ i, (s.slot i).body.target? ≠ some t → v.slot i = s.slot i) ∧
    (∀ i, (s.slot i).body.target? = some t → (v.slot i).generation = (s.slot i).generation ∧
      (v.slot i).body = match (s.slot i).body with
        | .ending e => .ending e
        | .held h => match s.flight h.inFlight with
          | .active _ => .ending ⟨some h.owner, t, h.mode, h.inFlight, .dropped⟩
          | _ => .free
        | _ => .free) ∧
    (∀ x, x ≠ t → v.entry x = s.entry x) ∧
    v.entry t = ⟨if ∃ i, (v.slot i).body.target? = some t then .retiring g else .absent, []⟩ ∧
    v.engines = s.engines ∧ v.sessions = s.sessions ∧ v.rights = s.rights

/-- R63: SET-RIGHTS writes the four values of one link's rights record and nothing else; a link above 3,
a quota of 0 or above 24, or a grace above 6000 units is BADREQ. -/
def Obligations.SetRightsByRule : Prop :=
  ∀ (s : State) (l : Link) (f : Frame) (rest : List Frame), s.Admits l .setRights f rest →
    let u := s.taking l rest
    (3 < (byteAt f.body 0).toNat ∨ (byteAt f.body 3).toNat = 0 ∨ 24 < (byteAt f.body 3).toNat ∨
        6000 < wordAt f.body 4 →
      exec (.setRights l) s = .next (u.answer l f.tag .badreq [])) ∧
    ∀ k : Link, k.val = (byteAt f.body 0).toNat → 1 ≤ (byteAt f.body 3).toNat →
      (byteAt f.body 3).toNat ≤ 24 → wordAt f.body 4 ≤ 6000 →
      exec (.setRights l) s = .next ((u.setRights k ⟨byteAt f.body 1, byteAt f.body 2,
        (byteAt f.body 3).toNat, wordAt f.body 4⟩).answer l f.tag .ok [])

/-- R65, R28: QUERY-TARGET answers with the entry's state, its fields (zero for ABSENT), the count of
SHARED members of the holder set, its EXCLUSIVE member, the length of the queue and the upgrade waiter;
an index above 31 is BADREQ. By `State.HolderLaw` there is one EXCLUSIVE member at most. -/
def Obligations.QueryTargetAnswers : Prop :=
  ∀ (s : State) (l : Link) (f : Frame) (rest : List Frame), s.Admits l .queryTarget f rest →
    s.HolderLaw →
    let u := s.taking l rest
    (31 < (byteAt f.body 0).toNat → exec (.queryTarget l) s = .next (u.answer l f.tag .badreq [])) ∧
    ∀ (t : EntryIx) (x y : Byte), t.val = (byteAt f.body 0).toNat →
      ((∃ i, (s.slot i).body.holding? = some (t, .exclusive) ∧ x = byteOf i.val) ∨
        (∀ i, (s.slot i).body.holding? ≠ some (t, .exclusive)) ∧ x = 0xFF) →
      ((∃ i h rest, (s.entry t).waitQueue = i :: rest ∧ (s.slot i).body = .held h ∧
          h.upgrade ≠ none ∧ y = byteOf i.val) ∨
        (∀ i h rest, (s.entry t).waitQueue = i :: rest → (s.slot i).body = .held h →
          h.upgrade = none) ∧ y = 0xFF) →
      exec (.queryTarget l) s = .next (u.answer l f.tag .ok
        ((match (s.entry t).body with
          | .absent => 0 :: List.replicate 14 0
          | .present g => 1 :: fieldBytes g
          | .retiring g => 2 :: fieldBytes g) ++
        [byteOf (slotIndices.countP fun i => decide ((s.slot i).body.holding? = some (t, .shared))), x,
          byteOf (s.entry t).waitQueue.length, y]))

/-! ### Transactions (Section 4) -/

/-- An accepted READ or WRITE takes a free pool record, which joins the tail of its bus queue and becomes
the slot's transaction in flight; no response is sent (R70), and the place found for it is available again
(R157). That this place then goes, by `givePlace`, to a completion or a reject that came to wait since the
intake was given it is the model's reading of R155 and R158, not R70's words (DEDUCED,
notes/assumptions/29.md); where none waits `givePlace` changes nothing (`FramesAreSent`). -/
def Obligations.TransactionAccepted : Prop :=
  ∀ (s : State) (l : Link) (r : Request) (kind : TxKind) (f : Frame) (rest : List Frame) (i : SlotIx)
    (h : HeldSlot) (fields : TargetFields) (count : Nat) (data : List Byte),
    (r = .read ∧ kind = .read ∧ count = (byteAt f.body 5).toNat ∧ data = [] ∨
      r = .write ∧ kind = .write ∧ count = f.body.length - 5 ∧ data = f.body.drop 5) →
    s.Admits l r f rest → s.NamesHeld l f.body i h → (s.entry h.target).body.fields? = some fields →
    s.transactionRefusal kind h fields (wordAt f.body 3) count = none →
    let bus : BusIx := if fields.bus = 0 then 0 else 1
    let later := fun v : State => (v.setLink l { v.link l with reserved := false }).givePlace l
    ∃ p, s.record p = none ∧ exec (r.command l) s = .next
      (later ((((s.taking l rest).setRecord p (some {
          kind := kind, state := .queued, link := l, tag := f.tag, destination := some l
          handle := some ⟨i, (s.slot i).generation⟩, bus := bus
          snapshot := ⟨fields.address, fields.speed, fields.offsetWidth, 2 ^ fields.pageCode,
            fields.pollLimit, fields.retryLimit⟩
          offset := wordAt f.body 3, count := count, data := data, nextStart := wordAt f.body 3
          bytesDone := 0, stopRequested := false, status := none, phase := none })).setBusQueue bus
        (s.busQueue bus ++ [p])).setBody i (.held { h with inFlight := some p })))

/-- R69: the refusals of READ and WRITE after the handle checks, by the first of its checks 2 to 6 that
fails; nothing else changes. -/
def Obligations.TransactionRefused : Prop :=
  ∀ (s : State) (l : Link) (r : Request) (kind : TxKind) (f : Frame) (rest : List Frame) (i : SlotIx)
    (h : HeldSlot) (fields : TargetFields) (count : Nat) (status : Status),
    (r = .read ∧ kind = .read ∧ count = (byteAt f.body 5).toNat ∨
      r = .write ∧ kind = .write ∧ count = f.body.length - 5) →
    s.Admits l r f rest → s.NamesHeld l f.body i h → (s.entry h.target).body.fields? = some fields →
    s.transactionRefusal kind h fields (wordAt f.body 3) count = some status →
    exec (r.command l) s = .next ((s.taking l rest).answer l f.tag status [])

/-- R76, R24: a record completes: it becomes DONE with its status and bytes done (none for a STORE, nor
for a READ that is not OK), its slot is told, and it is routed. -/
def Obligations.CompletionClearsSlot : Prop :=
  ∀ (s : State) (p : PoolIx) (r : Record) (status : Status) (n : Nat), s.record p = some r →
    let bytes := match r.kind with
      | .store => 0
      | .read => if status = .ok then n else 0
      | .write => n
    let r' := { r with state := .done, status := some status, bytesDone := bytes }
    let v := s.setRecord p (some r')
    (r.handle = none → s.complete p status n = v.route p r' false) ∧
    ∀ i, r.handle = some ⟨i, (s.slot i).generation⟩ →
      (∀ h, (s.slot i).body = .held h →
        s.complete p status n = (v.setBody i (.held { h with inFlight := none })).route p r' false) ∧
      ∀ e, (s.slot i).body = .ending e →
        let w := v.setBody i .free
        let used := ∃ j, j ≠ i ∧ (s.slot j).body.target? = some e.target
        let x := match (s.entry e.target).body with
          | .retiring _ => w.setEntry e.target { s.entry e.target with body := .absent }
          | _ => w.grantPass e.target
        ((∀ g, (s.entry e.target).body ≠ .retiring g) ∨ ¬ used →
          s.complete p status n = x.route p r' (e.owner == none)) ∧
        ((∃ g, (s.entry e.target).body = .retiring g) → used →
          s.complete p status n = (w.grantPass e.target).route p r' (e.owner == none))

/-- R77, R78, R79, R145: the routing of a DONE record: discarded with no destination, for a detached slot
or a CLOSED session; to the outbound queue of an OPEN session where a place is available and none waits,
and else to wait; a DONE-UNSEEN notice to a SUSPENDED one. The save job ends with its record. -/
def Obligations.CompletionRouting : Prop :=
  ∀ (s : State) (p : PoolIx) (r : Record) (detached : Bool),
    let job := if s.saveJob = some p then none else s.saveJob
    let freed := fun (v : State) => (v.setRecord p none).setSaveJob job
    (r.destination = none ∨ detached = true → s.route p r detached = freed s) ∧
    ∀ l, r.destination = some l → detached = false →
      (s.session l = .closed → s.route p r false = freed s) ∧
      (∀ key d, s.session l = .suspended key d → s.route p r false = freed (s.offerNotice l
        ⟨match r.handle with
          | some h => .handle h.slot.val h.generation
          | none => .handle 255 0, .doneUnseen r.tag (r.status.getD .ok) r.kind r.bytesDone⟩)) ∧
      ∀ key, s.session l = .opened key → s.route p r false =
        if (s.link l).placeAvailable = true ∧ s.waitingDone l = [] then
          freed (s.setLink l { s.link l with outbound := (s.link l).outbound ++
            [⟨r.tag, r.status.getD .ok, r.kind.code :: byteOf r.bytesDone ::
              (if r.kind = .read ∧ r.status = some .ok then r.data else [])⟩] })
        else s.setWaitingDone l (s.waitingDone l ++ [p])

/-- R72, R144: the segments of a WRITE and of a STORE: a segment runs to the next page boundary or the
end of the data; a target of offset width 0 is written in one; a STORE goes through its three phases. The
phase field and the image as a STORE's data are the model's (notes/assumptions/21.md). -/
def Obligations.SegmentPlan : Prop :=
  ∀ (r : Record) (image : List Byte), 0 < r.snapshot.pageSize →
    (r.phase = none → r.snapshot.offsetWidth = 0 → r.nextStart = r.offset → r.data.length = r.count →
      r.segmentData image = r.data ∧ r.nextSegment = none) ∧
    (r.phase = none → 0 < r.snapshot.offsetWidth → r.offset ≤ r.nextStart →
      r.nextStart < r.offset + r.count →
      ∃ k, 0 < k ∧ r.segmentLength = k ∧
        r.segmentData image = (r.data.drop (r.nextStart - r.offset)).take k ∧
        (∀ j, 0 < j → j < k → ¬ r.snapshot.pageSize ∣ r.nextStart + j) ∧
        (r.nextStart + k = r.offset + r.count ∧ r.nextSegment = none ∨
          r.nextStart + k < r.offset + r.count ∧ r.snapshot.pageSize ∣ r.nextStart + k ∧
            r.nextSegment = some { r with nextStart := r.nextStart + k })) ∧
    (r.snapshot = storeSnapshot → r.phase = some .invalidate → r.nextStart = 0 →
      r.segmentData image = [0x00, 0x00] ∧
        r.nextSegment = some { r with phase := some .body, nextStart := 2 }) ∧
    (r.snapshot = storeSnapshot → r.phase = some .body → 2 ≤ r.nextStart → r.nextStart < r.count →
      let stop := min ((r.nextStart / 32 + 1) * 32) r.count
      r.segmentData image = (image.drop r.nextStart).take (stop - r.nextStart) ∧
        r.nextSegment = some (if stop < r.count then { r with nextStart := stop }
          else { r with phase := some .sign, nextStart := 0 })) ∧
    (r.snapshot = storeSnapshot → r.phase = some .sign → r.nextStart = 0 →
      r.segmentData image = [0xA4, 0x16] ∧ r.nextSegment = none)

/-! ### Notices (Section 7) -/

/-- R131: COLLECT returns up to n notices from the head of the queue with the overrun flag as it stood,
and clears the flag; ATTN is deasserted when the queue is left empty. -/
def Obligations.CollectByRule : Prop :=
  ∀ (s : State) (l : Link) (f : Frame) (rest : List Frame), s.Admits l .collect f rest →
    let u := s.taking l rest
    let n := (byteAt f.body 0).toNat
    let q := (s.notice l).queue
    exec (.collect l) s = .next (if n < 1 ∨ 4 < n then u.answer l f.tag .badreq [] else
      (u.setNotice l ⟨q.drop n, false, !(q.drop n).isEmpty⟩).answer l f.tag .ok
        ([byteOf (min n q.length), if (s.notice l).overrun then 1 else 0, byteOf (q.length - n)] ++
          (q.take n).flatMap Notice.bytes))

/-- R126, R127, R128, R130: a notice handed to a session: discarded when it is CLOSED; coalesced with
one of the same kind and subject; stored after every notice of its class or a lesser one where there is
room; else it displaces the last notice, if that is of a greater class, or is dropped, and the overrun
flag is set. ATTN follows. -/
def Obligations.NoticeOfferByRule : Prop :=
  ∀ (s : State) (l : Link) (n : Notice),
    let u := s.notice l
    let lesser := fun (q : List Notice) => q.filter fun m => decide (m.cls ≤ n.cls)
    let greater := fun (q : List Notice) => q.filter fun m => decide (n.cls < m.cls)
    let store := fun (v : NoticeUnit) => s.setNotice l { v with attn := (s.session l).isOpen && !v.queue.isEmpty }
    (s.session l = .closed → s.offerNotice l n = s) ∧
    (s.session l ≠ .closed → u.queue.Pairwise (fun a b => a.cls ≤ b.cls) →
      ((∃ m ∈ u.queue, m.detail.kind = n.detail.kind ∧ m.subject = n.subject) →
        s.offerNotice l n = store u) ∧
      ((∀ m ∈ u.queue, ¬ (m.detail.kind = n.detail.kind ∧ m.subject = n.subject)) →
        (u.queue.length < 8 → s.offerNotice l n =
          store { u with queue := lesser u.queue ++ n :: greater u.queue }) ∧
        (u.queue.length = 8 → ∀ q last, u.queue = q ++ [last] → s.offerNotice l n =
          store (if n.cls < last.cls
            then { u with queue := lesser q ++ n :: greater q, overrun := true }
            else { u with overrun := true }))))
/-- R26, R104, R121, R142: QUERY-SLOT, QUERY-BUS, QUERY-LINK and QUERY-START answer with the state as it
stands when the request is taken, absent fields zero, and change nothing; an index out of range is
BADREQ. -/
def Obligations.SupervisorQueriesAnswer : Prop :=
  ∀ (s : State) (l : Link) (f : Frame) (rest : List Frame),
    let u := s.taking l rest
    let left := fun deadline => wordBytes ((deadline - s.now) / 10)
    (s.Admits l .querySlot f rest →
      (47 < (byteAt f.body 0).toNat → exec (.querySlot l) s = .next (u.answer l f.tag .badreq [])) ∧
      ∀ i : SlotIx, i.val = (byteAt f.body 0).toNat →
        exec (.querySlot l) s = .next (u.answer l f.tag .ok (
          match (s.slot i).body with
          | .free => [0] ++ wordBytes (s.slot i).generation ++ [0, 0, 0, 0, 0, 0, 0, 0, 0, 0, 0]
          | .waiting w => [1] ++ wordBytes (s.slot i).generation ++
              [byteOf w.owner.val, byteOf w.target.val, w.mode.code] ++
              wordBytes (w.requestedTerm / 10) ++ [0, 0] ++ left w.waitDeadline ++ [0, 0]
          | .held h => [2] ++ wordBytes (s.slot i).generation ++
              [byteOf h.owner.val, byteOf h.target.val, h.mode.code] ++
              wordBytes (h.requestedTerm / 10) ++ left h.termDeadline ++
              (match h.upgrade with
                | some d => left d
                | none => [0, 0]) ++
              [(if h.upgrade = none then 0 else 1) ||| (if h.lapseWarned then 2 else 0) |||
                (if h.inFlight = none then 0 else 4), 0]
          | .ending e => [3] ++ wordBytes (s.slot i).generation ++
              [match e.owner with
                | some k => byteOf k.val
                | none => 4, byteOf e.target.val, e.mode.code, 0, 0, 0, 0, 0, 0,
                if e.inFlight = none then 0 else 4, e.cause.code]))) ∧
    (s.Admits l .queryBus f rest →
      (1 < (byteAt f.body 0).toNat → exec (.queryBus l) s = .next (u.answer l f.tag .badreq [])) ∧
      ∀ b : BusIx, b.val = (byteAt f.body 0).toNat →
        let answered := fun active => exec (.queryBus l) s = .next (u.answer l f.tag .ok
          ([(s.engine b).state.code, byteOf (s.busQueue b).length, (s.engine b).lastFault.code] ++
            active))
        (∀ p r, (s.engine b).work = .record p → s.record p = some r →
          answered [1, byteOf r.link.val, r.tag]) ∧
        ((∀ p, (s.engine b).work ≠ .record p) → answered [0, 0, 0])) ∧
    (s.Admits l .queryLink f rest →
      (3 < (byteAt f.body 0).toNat → exec (.queryLink l) s = .next (u.answer l f.tag .badreq [])) ∧
      ∀ k : Link, k.val = (byteAt f.body 0).toNat →
        exec (.queryLink l) s = .next (u.answer l f.tag .ok (
          [(s.link k).line.code] ++
          (match s.session k with
            | .closed => [0, 0, 0, 0, 0]
            | .opened key => 1 :: wordBytes key ++ [0, 0]
            | .suspended key d => 2 :: wordBytes key ++ left d) ++
          [byteOf (slotIndices.countP fun i => decide ((s.slot i).body.owner? = some k)),
            byteOf (s.notice k).queue.length,
            byteOf (if k = l then rest else (s.link k).requestQueue).length,
            byteOf (s.link k).outbound.length,
            match (s.link k).pendingReject with
              | some (n, _) => byteOf n
              | none => 0]))) ∧
    (s.Admits l .queryStart f rest →
      exec (.queryStart l) s = .next (u.answer l f.tag .ok
        ([s.report.outcome.code, byteOf s.report.targets, byteOf s.report.rights,
          byteOf s.report.defects] ++ wordBytes s.report.firstOffset ++ [s.report.firstReason.code])))

/-! ### The intake (R157) -/

/-- R155, R157, R158: when the intake may take a frame: it is not held, and it has been given a place, or
one is available that neither a completion nor the pending reject waits for (a place given to it is kept:
notes/assumptions/29.md). The generic checks of a request that it takes, in order, for a listed CODE and for
any other; the first that fails gives the response, and nothing else changes. -/
def Obligations.IntakeChecks : Prop :=
  (∀ (s : State) (l : Link), s.intakeReady l = true ↔ (s.link l).restoreHold = none ∧
    ((s.link l).granted = true ∨ (s.link l).placeAvailable = true ∧ s.waitingDone l = [] ∧
      (s.link l).pendingReject = none)) ∧
  ∀ (s : State) (l : Link) (f : Frame) (rest : List Frame), s.Offers l f rest →
    let u := s.taking l rest
    (∀ r : Request, f.code = r.code →
      let refused := fun status => exec (r.command l) s = .next (u.answer l f.tag status [])
      (s.part = .starting → refused .starting) ∧
      (s.part = .ready → r.bodyOk f.body = false → refused .badreq) ∧
      (s.part = .ready → r.bodyOk f.body = true → (s.session l).isOpen = false → r ≠ .hello →
        refused .nosession) ∧
      (s.part = .ready → r.bodyOk f.body = true → (s.session l).isOpen = true →
        r.supervisor = true → s.supervisor ≠ some l → refused .denied)) ∧
    ((∀ r : Request, f.code ≠ r.code) →
      exec (.unlistedCodeRequest l) s = .next (u.answer l f.tag
        (if s.part = .starting then .starting else .badreq) []))

/-- A command whose event the state does not admit changes nothing (the model's choice,
notes/assumptions/3.md): a request that the intake may not take, a timer that is not running, a
character on a DOWN link, a restart, transmitter or bus event where that unit is not at that point, and
an end of an attempt, a stretch or a recovery by readings or levels that no course of it has
(notes/assumptions/20.md). -/
def Obligations.NoEventNoChange : Prop :=
  ∀ (s : State) (l : Link) (i : SlotIx) (b : BusIx) (lines : LineLevels),
    (∀ r : Request, (s.intakeReady l = false ∨ (s.link l).requestQueue = [] ∨
      ∃ f rest, (s.link l).requestQueue = f :: rest ∧ f.code ≠ r.code) →
      exec (r.command l) s = .next s) ∧
    ((s.intakeReady l = false ∨ (s.link l).requestQueue = [] ∨
      ∃ f rest r, (s.link l).requestQueue = f :: rest ∧ f.code = Request.code r) →
      exec (.unlistedCodeRequest l) s = .next s) ∧
    ((∀ h, (s.slot i).body ≠ .held h) → exec (.termExpiry i) s = .next s ∧
      exec (.lapseWarning i) s = .next s ∧ exec (.upgradeWaitExpiry i) s = .next s) ∧
    (∀ h, (s.slot i).body = .held h →
      (h.upgrade = none → exec (.upgradeWaitExpiry i) s = .next s) ∧
      (h.lapseWarned = true ∨ s.warnMs h.target = 0 → exec (.lapseWarning i) s = .next s)) ∧
    ((∀ w, (s.slot i).body ≠ .waiting w) → exec (.waitExpiry i) s = .next s) ∧
    ((∀ key d, s.session l ≠ .suspended key d) → exec (.graceExpiry l) s = .next s) ∧
    ((∀ job, s.restart = some job → l ∉ job.teardowns) →
      exec (.restartTeardown l lines) s = .next s) ∧
    ((s.link l).line = .up → exec (.linkUp l) s = .next s) ∧
    ((s.link l).line = .down → (∀ c, exec (.characterReceived l c) s = .next s) ∧
      exec (.badCharacter l) s = .next s ∧ ∀ holdin, exec (.transmitFrameStart l holdin) s = .next s) ∧
    ((s.link l).framer = .hunt → exec (.badCharacter l) s = .next s ∧
      exec (.gapTimerExpiry l) s = .next s) ∧
    ((s.link l).outbound = [] ∨ (s.link l).sending ≠ none →
      ∀ holdin, exec (.transmitFrameStart l holdin) s = .next s) ∧
    ((s.link l).sending = none → exec (.frameSent l) s = .next s) ∧
    ((s.engine b).state ≠ .idle ∨ (b = 0 → s.load = none) ∧ s.busQueue b = [] →
      exec (.takeRecord b lines) s = .next s) ∧
    (s.underway b = none →
      (∀ readings, exec (.readOperationEnd b readings lines) s = .next s ∧
        exec (.writeSegmentEnd b readings lines) s = .next s ∧
        exec (.busyPollEnd b readings lines) s = .next s) ∧
      ∀ point, exec (.clockStretchFault b point) s = .next s) ∧
    (∀ a plan, s.underway b = some (a, plan) →
      (∀ readings, a ≠ .operation ∨ runElements plan.elements readings = none ∨
          (∀ p, (s.engine b).work = .record p → ∀ r, s.record p = some r → r.kind ≠ .read) ∧
            (s.engine b).work ≠ .load →
        exec (.readOperationEnd b readings lines) s = .next s) ∧
      (∀ readings, a ≠ .operation ∨ runElements plan.elements readings = none ∨
          (∀ p, (s.engine b).work = .record p → ∀ r, s.record p = some r → r.kind = .read) →
        exec (.writeSegmentEnd b readings lines) s = .next s) ∧
      (∀ readings, a = .operation ∨ runElements plan.elements readings = none →
        exec (.busyPollEnd b readings lines) s = .next s) ∧
      ∀ point, (∀ run, ¬ StretchedAt plan.elements point run) →
        exec (.clockStretchFault b point) s = .next s) ∧
    (∀ met, runRecovery met = none → exec (.recoveryEnd b met lines) s = .next s) ∧
    ((∀ a, (s.engine b).state ≠ .active (.lineWait a)) →
      exec (.lineCheckClockStuck b lines) s = .next s ∧
      ((∀ c, (s.engine b).state ≠ .recovering c) →
        ∀ met, exec (.recoveryEnd b met lines) s = .next s)) ∧
    ((∀ d, (s.engine b).state ≠ .active (.retryWait d)) →
      exec (.addressRetryWaitExpiry b lines) s = .next s) ∧
    ((∀ d began, (s.engine b).state ≠ .active (.pollWait d began)) →
      exec (.busyPollWaitExpiry b lines) s = .next s)

/-! ### Start-up, restart and saving (Section 8) -/

/-- R135, R136, R106, R138: cold start: the straps are sampled, every block takes its cold start values
whatever it was doing, the catalogue is emptied, and the B0 engine takes the load operation that reads 2
bytes at offset 0 of the store. That the time is kept, that the idle measure begins at it, and that the
queue of commands and the free values' counter are kept is the model's choice (notes/assumptions/13.md),
as is what an engine has given on its bus at cold start (notes/assumptions/28.md). -/
def Obligations.ColdStartValues : Prop :=
  ∀ (s : State) (supen : Bool) (supsel rate : BitVec 2) (lines : LineLevels),
    ∃ t, exec (.coldStart supen supsel rate lines) s = .next t ∧
      t.now = s.now ∧ t.pending = s.pending ∧ t.freeCount = s.freeCount ∧
      t.supervisor = (if supen then some (Fin.ofNat 4 supsel.toNat) else none) ∧ t.rate = rate ∧
      t.part = .starting ∧ t.restart = none ∧ t.saveJob = none ∧
      t.report = ⟨.loading, 0, 0, 0, 0, .none⟩ ∧ t.load = some ⟨.signature, [], []⟩ ∧
      (∀ i, t.slot i = ⟨1, .free⟩) ∧ (∀ e, t.entry e = ⟨.absent, []⟩) ∧
      (∀ l, t.rightsOf l = if t.supervisor = some l then ⟨0xFF, 0xFF, 8, 0⟩ else ⟨0, 0, 4, 0⟩) ∧
      (∀ p, t.record p = none) ∧ (∀ b, t.busQueue b = []) ∧ (∀ l, t.waitingDone l = []) ∧
      (∀ l, t.session l = .closed) ∧ (∀ l, t.notice l = ⟨[], false, false⟩) ∧
      (∀ l, (t.link l).line = .down ∧ (t.link l).framer = .hunt ∧ (t.link l).requestQueue = [] ∧
        (t.link l).outbound = [] ∧ (t.link l).sending = none ∧ (t.link l).hold = false ∧
        (t.link l).reserved = false ∧ (t.link l).granted = false ∧ (t.link l).restoreHold = none ∧
        (t.link l).pendingReject = none ∧ (t.link l).idleFrom = s.now) ∧
      t.engine 1 = ⟨.idle, .none, .none, 0, ⟨0, []⟩⟩ ∧
      t.engine 0 = ⟨engineAfterCheck .operation ⟨1, [.start, .send 0xA6, .send 0, .send 0,
        .repeatedStart, .send 0xA7, .receive true, .receive false, .stop]⟩ lines, .none, .load, 0,
        ⟨0, []⟩⟩

/-- R138, R139, R141, R96, R98: the load at each end of a load operation, and the failing ends of one: the
retry with limit 3, NO-STORE or PARTIAL, the stretch fault, and the recovery of a line check. `next` hands
the operation at a stage to the B0 engine, `ended` ends the load with an outcome. What the image buffer
holds is the model's (notes/assumptions/19.md), as are the split of a body into reads of exactly 64 bytes
but the last (notes/assumptions/32.md), an event accepted from a line check whose clock has risen
(notes/assumptions/6.md), a wait's command that brings the time to its end (notes/assumptions/2.md),
a retries used that stays when the load ends (notes/assumptions/26.md), and what the engine has given on
its bus (notes/assumptions/28.md). -/
def Obligations.LoadAdvances : Prop :=
  ∀ (s : State) (j : LoadJob) (lines : LineLevels), (s.engine 0).work = .load → s.load = some j →
    let e := s.engine 0
    let plan := readPlan storeSnapshot j.stage.extent.1 j.stage.extent.2
    let next := fun (v : State) (given : BusPlan) (k : LoadJob) (offset count : Nat) =>
      (v.setLoad (some k)).setEngine 0 ⟨engineAfterCheck .operation
        (readPlan storeSnapshot offset count) lines, e.lastFault, .load, 0, given⟩
    let ended := fun (v : State) (given : BusPlan) (outcome : LoadOutcome) =>
      (((v.setEngine 0 ⟨.idle, e.lastFault, .none, e.retriesUsed, given⟩).setReport
        { v.report with outcome := outcome }).setLoad none).setPart .ready
    let failed := if j.stage = .signature then LoadOutcome.noStore else .partialLoad
    let atEnd := if s.report.defects = 0 then LoadOutcome.loaded else .loadedWithDefects
    (∀ (stored : BusPlan) (readings : List Bool) (run : BusRun),
      s.underway 0 = some (.operation, stored) → runElements stored.elements readings = some run →
      let g := ⟨stored.speed, run.given⟩
      let data := run.data
      let result := exec (.readOperationEnd 0 readings lines) s
      (run.refused = true → result = .next (if e.retriesUsed < 3 then s.setEngine 0 { e with
          retriesUsed := e.retriesUsed + 1, state := .active (.retryWait (s.now + 1)), given := g }
        else ended s g failed)) ∧
      (run.refused = false →
        (j.stage = .signature → data.length = 2 → result = .next (if data = [0xA4, 0x16]
          then next s g { j with stage := .header 2 } 2 2 else ended s g .noSignature)) ∧
        (∀ offset, j.stage = .header offset → data.length = 2 →
          let len := (byteAt data 1).toNat
          result = .next (if byteAt data 0 = 0 then ended s g atEnd
            else if 4096 < offset + len + 4 then ended s g .partialLoad
            else next (s.setImage data) g { j with stage := .body offset len 0 } (offset + 2)
              (min 64 (len + 2)))) ∧
        (j.stage = .lastByte → data.length = 1 → result = .next (ended s g (if byteAt data 0 = 0
          then atEnd else .partialLoad))) ∧
        ∀ offset len got, j.stage = .body offset len got → data.length = min 64 (len + 2 - got) →
          let block := s.imageBuffer ++ data
          let v := s.setImage block
          (got + data.length < len + 2 → result = .next (next v g
            { j with stage := .body offset len (got + data.length) }
              (offset + 2 + (got + data.length)) (min 64 (len + 2 - (got + data.length))))) ∧
          (len + 2 ≤ got + data.length →
            let w := v.classifyBlock j offset block
            let after := offset + len + 4
            ∃ k, w.load = some k ∧ result = .next (
              if 4096 ≤ after then ended w g .partialLoad
              else if after = 4095 then next w g { k with stage := .lastByte } 4095 1
              else next w g { k with stage := .header after } after 2)))) ∧
    (∀ (a : Attempt) (stored : BusPlan) (point : StretchPoint) (run : BusRun),
      s.underway 0 = some (a, stored) → StretchedAt stored.elements point run →
      exec (.clockStretchFault 0 point) s = .next (s.setEngine 0 { e with
        state := .recovering .stretch, given := ⟨stored.speed, run.given⟩ })) ∧
    (∀ d, e.state = .active (.retryWait d) → exec (.addressRetryWaitExpiry 0 lines) s =
      .next ({ s with now := max s.now d }.setEngine 0 { e with
        state := engineAfterCheck .operation plan lines })) ∧
    ∀ (met : List LineLevels) (rec : Recovery), runRecovery met = some rec →
      let given : BusPlan := ⟨0, rec.given⟩
      let v := s.setEngine 0 { e with given := given }
      let result := exec (.recoveryEnd 0 met lines) s
      (e.state = .recovering .stretch → result = .next (if rec.result = .success
        then ended s given failed else v.enterFault 0 .stretch .timeout lines)) ∧
      ((e.state = .recovering (.lineCheck .operation) ∨ e.state = .active (.lineWait .operation)) →
        result = .next (match rec.result with
          | .success => s.setEngine 0 { e with
              state := .active (.onBus .operation plan), given := given }
          | .clockFailed => v.enterFault 0 .stuckClock .busfault lines
          | .dataFailed => v.enterFault 0 .stuckData .busfault lines))

/-- R140: the classification of a block read whole at an offset, by the first test that applies; an
accepted one enters the catalogue, a defect is counted, up to 255, and the first is recorded. -/
def Obligations.BlockClassified : Prop :=
  ∀ (s : State) (j : LoadJob) (offset : Nat) (kind len : Byte) (body crc : List Byte),
    body.length = len.toNat → crc.length = 2 →
    let block := kind :: len :: body ++ crc
    let index := (byteAt body 0).toNat
    let fields := fieldsAt body 1
    let rights := rightsAt body 1
    let defect := fun reason => s.classifyBlock j offset block = s.setReport { s.report with
      defects := min (s.report.defects + 1) 255
      firstOffset := if s.report.defects = 0 then offset else s.report.firstOffset
      firstReason := if s.report.defects = 0 then reason else s.report.firstReason }
    let good := crc = crcBytes (kind :: len :: body)
    let clash := ∃ x g, x.val ≠ index ∧ (s.entry x).body.fields? = some g ∧ g.bus = fields.bus ∧
      g.address = fields.address
    (¬ good → defect .badcheck) ∧
    (good → ¬ (kind = 1 ∧ len = 15) → ¬ (kind = 2 ∧ len = 6) → defect .unknown) ∧
    (good → kind = 1 → len = 15 →
      (31 < index ∨ fields.valid = false → defect .invalid) ∧
      ∀ t : EntryIx, t.val = index → fields.valid = true →
        (t ∈ j.targets → defect .duplicate) ∧
        (t ∉ j.targets → clash → defect .invalid) ∧
        (t ∉ j.targets → ¬ clash → s.classifyBlock j offset block =
          ((s.setEntry t ⟨.present fields, []⟩).setLoad (some { j with targets := t :: j.targets })
            ).setReport { s.report with targets := s.report.targets + 1 })) ∧
    (good → kind = 2 → len = 6 →
      (3 < index ∨ rights.quota = 0 ∨ 24 < rights.quota ∨ 6000 < rights.grace → defect .invalid) ∧
      ∀ l : Link, l.val = index → 1 ≤ rights.quota → rights.quota ≤ 24 → rights.grace ≤ 6000 →
        (l ∈ j.rights → defect .duplicate) ∧
        (l ∉ j.rights → s.classifyBlock j offset block =
          ((s.setRights l rights).setLoad (some { j with rights := l :: j.rights })).setReport
            { s.report with rights := s.report.rights + 1 }))

/-- R143: SAVE-CATALOGUE by its three checks; an accepted save builds the image of the catalogue as it
stands and queues a STORE record on B0; no response is sent, and the place found for it is available
again, as for a READ (`TransactionAccepted`; notes/assumptions/29.md). The image buffer as a list is the model's
(notes/assumptions/19.md), and so are the record's empty data and its phase (notes/assumptions/21.md). -/
def Obligations.SaveByChecks : Prop :=
  ∀ (s : State) (l : Link) (f : Frame) (rest : List Frame), s.Admits l .saveCatalogue f rest →
    let u := s.taking l rest
    let refused := fun status => exec (.saveCatalogue l) s = .next (u.answer l f.tag status [])
    let full := 8 ≤ (s.busQueue 0).length ∨ ∀ p, s.record p ≠ none
    let later := fun v : State => (v.setLink l { v.link l with reserved := false }).givePlace l
    let image : List Byte := signature ++ entryIndices.flatMap (fun t => match (s.entry t).body with
        | .present g => imageBlock 0x01 (byteOf t.val :: fieldBytes g)
        | _ => []) ++
      linkIndices.flatMap (fun k => imageBlock 0x02 (byteOf k.val :: rightsBytes (s.rightsOf k))) ++
      [0x00]
    (s.saveJob ≠ none → refused .saving) ∧
    (s.saveJob = none → (s.engine 0).state = .fault → refused .busfault) ∧
    (s.saveJob = none → (s.engine 0).state ≠ .fault → full → refused .qfull) ∧
    (s.saveJob = none → (s.engine 0).state ≠ .fault → ¬ full →
      image.length = 43 + 19 * entryIndices.countP (fun t => (s.entry t).body.code == 1) ∧
      ∃ p, s.record p = none ∧ exec (.saveCatalogue l) s = .next
        (later ((((u.setImage image).setRecord p (some {
            kind := .store, state := .queued, link := l, tag := f.tag, destination := some l
            handle := none, bus := 0, snapshot := ⟨0x53, 1, 2, 32, 20, 3⟩, offset := 0
            count := image.length, data := [], nextStart := 0, bytesDone := 0
            stopRequested := false, status := none, phase := some .invalidate })).setBusQueue 0
          (s.busQueue 0 ++ [p])).setSaveJob (some p))))

/-- R147, R123, R148: RESTART sets the part STARTING and the teardowns in train; RESTART_TEARDOWN takes
one, and when the last is taken with every slot and record free the restart acts by its scope: the part is
READY, or the catalogue is emptied and the load begins. Which sessions are torn down is settled when the
RESTART is taken (notes/assumptions/18.md). -/
def Obligations.RestartAndDrain : Prop :=
  (∀ (s : State) (l : Link) (f : Frame) (rest : List Frame), s.Admits l .restart f rest →
    let u := s.taking l rest
    exec (.restart l) s = .next (
      if 1 < (byteAt f.body 0).toNat then u.answer l f.tag .badreq []
      else if s.saveJob ≠ none then u.answer l f.tag .saving []
      else ((u.answer l f.tag .ok []).setPart .starting).setRestart (some
        ⟨if byteAt f.body 0 = 0 then .keep else .reload,
          linkIndices.filter fun k => !(s.session k).isClosed⟩))) ∧
  (∀ (s : State) (l : Link) (lines : LineLevels) (job : RestartJob), s.restart = some job →
    l ∈ job.teardowns →
    exec (.restartTeardown l lines) s = .next (((if s.session l = .closed then s
      else s.teardown l).setRestart (some ⟨job.scope, job.teardowns.erase l⟩)).checkDrain lines)) ∧
  ∀ (s : State) (lines : LineLevels) (job : RestartJob), s.restart = some job →
    let drained := job.teardowns = [] ∧ (∀ i, (s.slot i).body = .free) ∧ ∀ p, s.record p = none
    (¬ drained → s.checkDrain lines = s) ∧
    (drained → job.scope = .keep → s.checkDrain lines = (s.setRestart none).setPart .ready) ∧
    (drained → job.scope = .reload →
      let v := { s with
        restart := none, entries := Vector.replicate 32 ⟨.absent, []⟩
        rights := Vector.ofFn fun l =>
          if s.supervisor = some l then ⟨0xFF, 0xFF, 8, 0⟩ else ⟨0, 0, 4, 0⟩
        report := ⟨.loading, 0, 0, 0, 0, .none⟩, load := some ⟨.signature, [], []⟩ }
      ((s.engine 0).state = .idle → s.checkDrain lines = v.setEngine 0
        ⟨engineAfterCheck .operation (readPlan storeSnapshot 0 2) lines, (s.engine 0).lastFault,
          .load, 0, (s.engine 0).given⟩) ∧
      ((s.engine 0).state = .fault → s.checkDrain lines = ((v.setReport
        ⟨.busFault, 0, 0, 0, 0, .none⟩).setLoad none).setPart .ready))

/-! ### Host links (Section 9) -/

/-- R150, R151, R113, R78: BREAK on an UP link takes it DOWN: the unit is emptied, an OPEN session is
suspended with its waiting completions turned into notices, or torn down where its grace is 0. An OPEN
session whose teardown by a RESTART is still to come is torn down first, so that the link going DOWN changes
no session (R149; that its teardown is taken here is the model's reading, notes/assumptions/30.md). A break
on a DOWN link restarts the measure of idle; LINK_UP brings a DOWN link UP, no earlier than 10 ms after it.
That LINK_UP brings the time to it is the model's choice (notes/assumptions/2.md, 16.md). -/
def Obligations.LineGoesDownAndUp : Prop :=
  ∀ (s : State) (l : Link),
    let u := s.link l
    let down := fun (v : State) => v.setLink l { u with
      line := .down, idleFrom := s.now, framer := .hunt, requestQueue := [], hold := false
      outbound := [], sending := none, reserved := false, granted := false, pendingReject := none }
    let inTrain := ∃ job, s.restart = some job ∧ l ∈ job.teardowns
    (u.line = .up → inTrain → ∀ key, s.session l = .opened key →
      exec (.lineBreak l) s = .next (down (s.teardown l))) ∧
    (u.line = .up → ¬ inTrain → ∀ key, s.session l = .opened key → (s.rightsOf l).grace ≠ 0 →
      let suspended := ((s.setSession l (.suspended key (s.now + (s.rightsOf l).grace * 10))).setNotice l
        { s.notice l with attn := false }).setWaitingDone l []
      exec (.lineBreak l) s = .next (down ((s.waitingDone l).foldl (State.convertDone l) suspended))) ∧
    (∀ (v : State) (p : PoolIx) (r : Record), v.record p = some r →
      State.convertDone l v p = (v.offerNotice l (doneUnseenNotice r)).freeRecord p) ∧
    (u.line = .up → ¬ inTrain → ∀ key, s.session l = .opened key → (s.rightsOf l).grace = 0 →
      exec (.lineBreak l) s = .next (down (s.teardown l))) ∧
    (u.line = .up → (∀ key, s.session l ≠ .opened key) →
      exec (.lineBreak l) s = .next (down s)) ∧
    (u.line = .down → exec (.lineBreak l) s = .next (s.setLink l { u with idleFrom := s.now })) ∧
    (u.line = .down → exec (.linkUp l) s =
      .next ({ s with now := max s.now (u.idleFrom + 10) }.setLink l { u with line := .up }))

/-- R152, R153: the framer of an UP link takes a character: in HUNT, in LENGTH, and in CONTENT, where the
last one completes a frame, which joins the request queue (HOLD is asserted at 3) or is rejected BADCHECK
or OVERRUN. A gap timer due 20 ms after a character is the model's reading (notes/assumptions/15.md). -/
def Obligations.CharacterByFramerState : Prop :=
  ∀ (s : State) (l : Link) (c : Byte), (s.link l).line = .up →
    let u := s.link l
    let goes := fun x => exec (.characterReceived l c) s = .next (s.setLink l { u with framer := x })
    let rejects := fun reason => exec (.characterReceived l c) s = .next (s.framerRejects l reason)
    (u.framer = .hunt → c = 0xB5 → goes (.length (s.now + 20))) ∧
    (u.framer = .hunt → c ≠ 0xB5 → exec (.characterReceived l c) s = .next s) ∧
    (∀ gap, u.framer = .length gap →
      (2 ≤ c.toNat → c.toNat ≤ 80 → goes (.content c.toNat [] (s.now + 20))) ∧
      (c.toNat < 2 ∨ 80 < c.toNat → rejects .badlength)) ∧
    ∀ len got gap, u.framer = .content len got gap →
      (got.length + 1 < len + 2 → goes (.content len (got ++ [c]) (s.now + 20))) ∧
      ∀ tag code body check, got ++ [c] = tag :: code :: body ++ check →
        len = body.length + 2 → check.length = 2 →
        let good := check = crcBytes (byteOf len :: tag :: code :: body)
        (good → u.requestQueue.length < 4 → exec (.characterReceived l c) s = .next (s.setLink l { u with
          framer := .hunt, requestQueue := u.requestQueue ++ [⟨tag, code, body⟩]
          hold := u.hold || u.requestQueue.length == 2 })) ∧
        (good → 4 ≤ u.requestQueue.length → rejects .overrun) ∧
        (¬ good → rejects .badcheck)

/-- R152, R156, R155: a framer reject, here by a bad character and by the gap timer: the framer returns
to HUNT, the pending-reject record is created or raised, and it takes an available outbound place, as a
REJECT frame with TAG 0, if no completion waits. That the gap timer's command brings the time to its
deadline is the model's choice (notes/assumptions/2.md). -/
def Obligations.FramerRejectByRule : Prop :=
  ∀ (s : State) (l : Link),
    let u := s.link l
    (u.line = .up → u.framer ≠ .hunt →
      exec (.badCharacter l) s = .next (s.framerRejects l .badchar)) ∧
    (∀ gap, (u.framer = .length gap ∨ ∃ len got, u.framer = .content len got gap) →
      exec (.gapTimerExpiry l) s =
        .next ({ s with now := max s.now gap }.framerRejects l .gap)) ∧
    ∀ reason n first,
      (u.pendingReject = none ∧ n = 1 ∧ first = reason ∨
        ∃ m, u.pendingReject = some (m, first) ∧ n = min (m + 1) 255) →
      (u.placeAvailable = false → s.framerRejects l reason = s.setLink l { u with
        framer := .hunt, pendingReject := some (n, first) }) ∧
      (u.placeAvailable = true → s.waitingDone l = [] → s.framerRejects l reason = s.setLink l { u with
        framer := .hunt, pendingReject := none
        outbound := u.outbound ++ [⟨0, .reject, [byteOf n, first.code]⟩] })

/-- R154, R155, R158, R159: who takes an available outbound place: the oldest waiting completion, or else
the pending reject. An idle transmitter of an UP link begins the frame at the head of the outbound queue
when HOLDIN is deasserted; when it has been sent the frame leaves the queue, and the place goes to the
oldest waiting completion, or else to the pending reject, or else to the intake if it has a frame and is
not held, or stays. A place given to the intake is there for it whatever completion or reject comes before
it takes a frame (R158, read so in notes/assumptions/29.md). The link's law rules out a queue with no place
once a frame has left it. -/
def Obligations.FramesAreSent : Prop :=
  (∀ (s : State) (l : Link),
    let u := s.link l
    (u.placeAvailable = true ↔
      u.outbound.length + (if u.reserved then 1 else 0) + (if u.granted then 1 else 0) < 6) ∧
    (u.placeAvailable = false → s.givePlace l = s) ∧
    (u.placeAvailable = true → ∀ p q x, s.waitingDone l = p :: q → s.record p = some x →
      s.givePlace l = ((s.setLink l { u with outbound := u.outbound ++ [completionFrame x] }
        ).setWaitingDone l q).freeRecord p) ∧
    (u.placeAvailable = true → s.waitingDone l = [] → ∀ n first, u.pendingReject = some (n, first) →
      s.givePlace l = s.setLink l { u with
        outbound := u.outbound ++ [⟨0, .reject, [byteOf n, first.code]⟩], pendingReject := none }) ∧
    (s.waitingDone l = [] → u.pendingReject = none → s.givePlace l = s)) ∧
  ∀ (s : State) (l : Link), (s.link l).Lawful (s.session l) →
    let u := s.link l
    (∀ r rest, u.line = .up → u.sending = none → u.outbound = r :: rest →
      let core := byteOf (r.body.length + 2) :: r.tag :: r.status.code :: r.body
      exec (.transmitFrameStart l false) s = .next (s.setLink l { u with
        sending := some (0xB6 :: core ++ wordBytes (crc16 core).toNat) }) ∧
      exec (.transmitFrameStart l true) s = .next s) ∧
    ∀ chars r rest, u.sending = some chars → u.outbound = r :: rest →
      let v := s.setLink l { u with sending := none, outbound := rest }
      let given := s.setLink l { u with sending := none, outbound := rest, granted := true }
      (∀ p q x, s.waitingDone l = p :: q → s.record p = some x → exec (.frameSent l) s = .next
        (((v.setLink l { u with sending := none, outbound := rest ++ [completionFrame x] }
          ).setWaitingDone l q).freeRecord p)) ∧
      (s.waitingDone l = [] → ∀ n first, u.pendingReject = some (n, first) →
        exec (.frameSent l) s = .next (s.setLink l { u with
          sending := none, outbound := rest ++ [⟨0, .reject, [byteOf n, first.code]⟩]
          pendingReject := none })) ∧
      (s.waitingDone l = [] → u.pendingReject = none →
        (u.requestQueue = [] ∨ u.restoreHold ≠ none → exec (.frameSent l) s = .next v) ∧
        (u.requestQueue ≠ [] → u.restoreHold = none → exec (.frameSent l) s = .next given ∧
          given.intakeReady l = true ∧
          (∀ reason, (given.framerRejects l reason).intakeReady l = true ∧
            ((given.framerRejects l reason).link l).outbound.length < 6) ∧
          ∀ p x detached, x.destination = some l →
            (given.route p x detached).intakeReady l = true ∧
              ((given.route p x detached).link l).outbound.length < 6))

/-! ### Bus engines (Section 5) -/

/-- R71, R72, R91, R93, R97: what an engine sends and receives: a read operation for each offset width, a
write segment, and an attempt of a busy poll; the steps of each element on the two lines, with the bits of
a byte most significant first (R90, R91); and the course of an attempt by the levels read: with every
byte sent acknowledged it gives the whole plan, and at the first byte refused a stop ends it. Readings
that are too many or too few are the model's to set aside (notes/assumptions/20.md), and it is the model's
choice that the two lines of a release are let go the data line first (notes/assumptions/31.md). -/
def Obligations.OperationPlans : Prop :=
  (∀ (sn : Snapshot) (offset count : Nat), 0 < count →
    let write := BusElement.send (byteOf (sn.address * 2))
    let read := BusElement.send (byteOf (sn.address * 2 + 1))
    let received := List.replicate (count - 1) (BusElement.receive true) ++ [.receive false, .stop]
    (sn.offsetWidth = 0 → readPlan sn offset count = ⟨sn.speed, [.start, read] ++ received⟩) ∧
    (sn.offsetWidth = 1 → readPlan sn offset count = ⟨sn.speed,
      [.start, write, .send (byteOf offset), .repeatedStart, read] ++ received⟩) ∧
    (sn.offsetWidth = 2 → readPlan sn offset count = ⟨sn.speed,
      [.start, write, .send (byteOf (offset / 256)), .send (byteOf offset), .repeatedStart, read] ++
        received⟩)) ∧
  (∀ (sn : Snapshot) (offset : Nat) (data : List Byte),
    let write := BusElement.send (byteOf (sn.address * 2))
    let sent := data.map BusElement.send ++ [.stop]
    (sn.offsetWidth = 0 → writePlan sn offset data = ⟨sn.speed, [.start, write] ++ sent⟩) ∧
    (sn.offsetWidth = 1 → writePlan sn offset data =
      ⟨sn.speed, [.start, write, .send (byteOf offset)] ++ sent⟩) ∧
    (sn.offsetWidth = 2 → writePlan sn offset data =
      ⟨sn.speed, [.start, write, .send (byteOf (offset / 256)), .send (byteOf offset)] ++ sent⟩) ∧
    pollPlan sn = ⟨sn.speed, [.start, write, .stop]⟩) ∧
  (∀ (b : Byte) (acknowledge : Bool),
    let sent : Bool → List LineStep := fun bit => [.data bit, .clock true, .clock false]
    let read : List LineStep := [.clock true, .readData, .clock false]
    BusElement.start.steps = [.data false, .clock false] ∧
    BusElement.repeatedStart.steps = [.data true, .clock true, .data false, .clock false] ∧
    (BusElement.send b).steps = sent b[7] ++ sent b[6] ++ sent b[5] ++ sent b[4] ++ sent b[3] ++
      sent b[2] ++ sent b[1] ++ sent b[0] ++ .data true :: read ∧
    (BusElement.receive acknowledge).steps = .data true :: (read ++ read ++ read ++ read ++ read ++
      read ++ read ++ read) ++ sent (!acknowledge) ∧
    BusElement.stop.steps = [.clock false, .data false, .clock true, .data true] ∧
    BusElement.release.steps = [.data true, .clock true] ∧
    BusElement.pulse.steps = [.clock false, .clock true, .readData]) ∧
  (∀ (sn : Snapshot) (offset : Nat) (data : List Byte), 0 < data.length → sn.offsetWidth ≤ 2 →
    let bits := data.flatMap fun b => [b[7], b[6], b[5], b[4], b[3], b[2], b[1], b[0]]
    let asked := if sn.offsetWidth = 0 then 1 else sn.offsetWidth + 2
    let reads := (readPlan sn offset data.length).elements
    let writes := (writePlan sn offset data).elements
    let k := 1 + sn.offsetWidth + data.length
    runElements reads (List.replicate asked false ++ bits) = some ⟨reads, asked, false, data⟩ ∧
    runElements writes (List.replicate k false) = some ⟨writes, k, false, []⟩ ∧
    runElements (pollPlan sn).elements [false] = some ⟨(pollPlan sn).elements, 1, false, []⟩) ∧
  ∀ (elements : List BusElement) (readings : List Bool) (run : BusRun),
    runElements elements readings = some run →
    (run.refused = false → run.given = elements ∧
      run.acknowledged = (sentBytes elements).length) ∧
    (run.refused = true → ∃ front b back, elements = front ++ .send b :: back ∧
      run.given = front ++ [.send b, .stop] ∧ run.acknowledged = (sentBytes front).length ∧
      readings.getLast? = some true) ∧
    (BusElement.pulse ∉ elements →
      readings.length = (run.given.flatMap BusElement.steps).countP fun x => decide (x = .readData))

/-- R88, R89: an IDLE engine takes the record at the head of its queue, or a load operation handed to B0,
and begins its first operation with the line check. -/
def Obligations.EngineTakesWork : Prop :=
  ∀ (s : State) (b : BusIx) (lines : LineLevels), (s.engine b).state = .idle →
    (∀ p rest r, (b = 0 → s.load = none) → s.busQueue b = p :: rest → s.record p = some r →
      exec (.takeRecord b lines) s = .next
        (((s.setBusQueue b rest).setRecord p (some { r with state := .active })).setEngine b
          ⟨engineAfterCheck .operation (if r.kind = .read then readPlan r.snapshot r.offset r.count
            else writePlan r.snapshot r.nextStart (r.segmentData s.imageBuffer)) lines,
            (s.engine b).lastFault, .record p, 0, (s.engine b).given⟩)) ∧
    ∀ j, b = 0 → s.load = some j → exec (.takeRecord b lines) s = .next (s.setEngine 0
      ⟨engineAfterCheck .operation (readPlan storeSnapshot j.stage.extent.1 j.stage.extent.2) lines,
        (s.engine 0).lastFault, .load, 0, (s.engine 0).given⟩)

/-- R94, R96, R98: the read operation of a READ record ends: OK with its data, or not acknowledged, with
a retry in 1 ms or completion NOACK. `stored` is the plan of the attempt under way. That this is accepted
from a line check whose clock has risen (notes/assumptions/6.md), that retries used stays when the
operation is over (notes/assumptions/26.md), and what the engine keeps of what it gave on its bus
(notes/assumptions/28.md) are the model's choices. -/
def Obligations.ReadOperationEnds : Prop :=
  ∀ (s : State) (b : BusIx) (p : PoolIx) (r : Record) (lines : LineLevels) (stored : BusPlan)
    (readings : List Bool) (run : BusRun),
    s.underway b = some (.operation, stored) → runElements stored.elements readings = some run →
    (s.engine b).work = .record p → s.record p = some r → r.kind = .read →
    let e := { s.engine b with given := ⟨stored.speed, run.given⟩ }
    let idle := fun (v : State) => v.setEngine b { e with state := .idle, work := .none }
    let result := exec (.readOperationEnd b readings lines) s
    (run.refused = false → result = .next (((idle (s.setRecord p (some { r with
        data := run.data }))).complete p .ok r.count).checkDrain lines)) ∧
    (run.refused = true → result = .next (
      if e.retriesUsed < r.snapshot.retryLimit then s.setEngine b { e with
        retriesUsed := e.retriesUsed + 1, state := .active (.retryWait (s.now + 1)) }
      else ((idle s).complete p .noack 0).checkDrain lines))

/-- R95, R96, R74, R72: the data phase of a write segment of a WRITE or a STORE ends, and a segment
boundary: the next segment, OK after the last, or CUT for a WRITE whose stop is requested, with next
start moved on in either case. `stored` is the plan of the attempt under way. Bytes done is raised at the
end of the data phase (notes/assumptions/7.md), the event is accepted from a line check whose clock has
risen (notes/assumptions/6.md), retries used stays when the segment is over (notes/assumptions/26.md), and
the engine keeps what it gave on its bus (notes/assumptions/28.md): the model's choices. -/
def Obligations.WriteSegmentEnds : Prop :=
  ∀ (s : State) (b : BusIx) (p : PoolIx) (r : Record) (lines : LineLevels),
    (s.engine b).work = .record p → s.record p = some r → r.kind ≠ .read →
    (let e := s.engine b
      let ended := fun (v : State) status n =>
        ((v.setEngine b { e with state := .idle, work := .none }).complete p status n).checkDrain lines
      s.segmentBoundary b p r lines = match r.nextSegment with
        | none => ended s .ok r.count
        | some r' =>
          let v := s.setRecord p (some r')
          if r.kind = .write ∧ r.stopRequested = true then ended v .cut r.bytesDone else
            v.setEngine b ⟨engineAfterCheck .operation
              (writePlan r'.snapshot r'.nextStart (r'.segmentData s.imageBuffer)) lines, e.lastFault,
              .record p, 0, e.given⟩) ∧
    ∀ (stored : BusPlan) (readings : List Bool) (run : BusRun),
      s.underway b = some (.operation, stored) → runElements stored.elements readings = some run →
      let e := { s.engine b with given := ⟨stored.speed, run.given⟩ }
      let ended := fun status n =>
        ((s.setEngine b { e with state := .idle, work := .none }).complete p status n).checkDrain lines
      let result := exec (.writeSegmentEnd b readings lines) s
      (run.refused = true → run.acknowledged = 0 → result = .next (
        if e.retriesUsed < r.snapshot.retryLimit then s.setEngine b { e with
          retriesUsed := e.retriesUsed + 1, state := .active (.retryWait (s.now + 1)) }
        else ended .noack r.bytesDone)) ∧
      (run.refused = true → 0 < run.acknowledged → run.acknowledged ≤ 1 + r.snapshot.offsetWidth →
        result = .next (ended .datanak r.bytesDone)) ∧
      (∀ n, run.refused = true → run.acknowledged = 1 + r.snapshot.offsetWidth + n →
        result = .next (ended .datanak (r.bytesDone + n))) ∧
      let raised := if r.kind = .write then { r with bytesDone := r.bytesDone + r.segmentLength } else r
      let v := (s.setEngine b e).setRecord p (some raised)
      (run.refused = false → 0 < r.snapshot.pollLimit → result = .next (v.setEngine b
        { e with state := engineAfterCheck (.poll s.now) (pollPlan r.snapshot) lines })) ∧
      (run.refused = false → r.snapshot.pollLimit = 0 →
        result = .next (v.segmentBoundary b p raised lines))

/-- R97, R96: an attempt of a busy poll ends: acknowledged, it makes the segment boundary; not, a further
attempt follows in 1 ms, or BUSYTIMEOUT where the poll has reached its limit. The two waits of 1 ms run
out: the operation begins again, or the next poll attempt, from its line check. `stored` is the plan of
the attempt under way. That a command brings the time to the end of its wait (notes/assumptions/2.md), an
end from a line check whose clock has risen (notes/assumptions/6.md), retries used kept by the poll and
after it (notes/assumptions/26.md), and what the engine keeps of what it gave on its bus
(notes/assumptions/28.md) are the model's choices. -/
def Obligations.PollsAndRetryWaits : Prop :=
  ∀ (s : State) (b : BusIx) (p : PoolIx) (r : Record) (lines : LineLevels),
    (s.engine b).work = .record p → s.record p = some r →
    let e := s.engine b
    (∀ (began : Nat) (stored : BusPlan) (readings : List Bool) (run : BusRun),
      s.underway b = some (.poll began, stored) → runElements stored.elements readings = some run →
      let e := { e with given := ⟨stored.speed, run.given⟩ }
      let result := exec (.busyPollEnd b readings lines) s
      (run.refused = false →
        result = .next ((s.setEngine b e).segmentBoundary b p r lines)) ∧
      (run.refused = true → result = .next (if s.now - began < r.snapshot.pollLimit
        then s.setEngine b { e with state := .active (.pollWait (s.now + 1) began) }
        else ((s.setEngine b { e with state := .idle, work := .none }).complete p .busytimeout
          r.bytesDone).checkDrain lines))) ∧
    (∀ d began, e.state = .active (.pollWait d began) → exec (.busyPollWaitExpiry b lines) s =
      .next ({ s with now := max s.now d }.setEngine b { e with
        state := engineAfterCheck (.poll began) (pollPlan r.snapshot) lines })) ∧
    ∀ d, e.state = .active (.retryWait d) →
      let v := { s with now := max s.now d }
      let plan := if r.kind = .read then readPlan r.snapshot r.offset r.count
        else writePlan r.snapshot r.nextStart (r.segmentData s.imageBuffer)
      exec (.addressRetryWaitExpiry b lines) s =
        .next (v.setEngine b { e with state := engineAfterCheck .operation plan lines })

/-- R90, R92, R93, R89, R98: the course of a recovery by the levels it meets; a stretch fault sends the
engine to recovery with the data bytes acknowledged before it counted for a WRITE and the bytes that had
arrived in the data of a READ (R66, Table 4-1; both put down at this event: notes/assumptions/7.md); a
recovery that succeeds ends the record TIMEOUT after a stretch, and after a line check issues the start at
once; one that fails enters FAULT. `stored` is the plan of the attempt under way. That the events of an attempt, and the end of a line check's recovery, are accepted from a line
check whose clock has risen (notes/assumptions/6.md), that a clock still low after the stop of a recovery
fails it on the clock (notes/assumptions/27.md), retries used kept (notes/assumptions/26.md), and what the
engine keeps of what it gave on its bus (notes/assumptions/28.md) are the model's choices. -/
def Obligations.StretchAndRecovery : Prop :=
  (∀ (last : LineLevels) (result : RecoveryResult),
      (last = .bothHigh ∧ result = .success ∨ last = .dataLow ∧ result = .dataFailed ∨
        last = .clockLow ∧ result = .clockFailed) →
    runRecovery [.bothHigh, last] = some ⟨[.release, .stop], result⟩ ∧
    ∀ n, n < 9 → runRecovery (.dataLow :: List.replicate n .dataLow ++ [.bothHigh, last]) =
      some ⟨.release :: List.replicate (n + 1) .pulse ++ [.stop], result⟩) ∧
  runRecovery [.clockLow] = some ⟨[.release], .clockFailed⟩ ∧
  (∀ n, n < 9 → runRecovery (.dataLow :: List.replicate n .dataLow ++ [.clockLow]) =
    some ⟨.release :: List.replicate (n + 1) .pulse, .clockFailed⟩) ∧
  runRecovery (List.replicate 10 .dataLow) =
    some ⟨.release :: List.replicate 9 .pulse, .dataFailed⟩ ∧
  ∀ (s : State) (b : BusIx) (p : PoolIx) (r : Record) (lines : LineLevels),
    (s.engine b).work = .record p → s.record p = some r →
    let e := s.engine b
    (∀ (a : Attempt) (stored : BusPlan) (point : StretchPoint) (run : BusRun),
      s.underway b = some (a, stored) → StretchedAt stored.elements point run →
      let n := run.acknowledged - (1 + r.snapshot.offsetWidth)
      let v := match a, r.kind with
        | .operation, .write => s.setRecord p (some { r with bytesDone := r.bytesDone + n })
        | .operation, .read => s.setRecord p (some { r with data := run.data })
        | _, _ => s
      exec (.clockStretchFault b point) s = .next (v.setEngine b { e with
        state := .recovering .stretch, given := ⟨stored.speed, run.given⟩ })) ∧
    ∀ (met : List LineLevels) (rec : Recovery), runRecovery met = some rec →
      let e' := { e with given := ⟨0, rec.given⟩ }
      let v := s.setEngine b e'
      let result := exec (.recoveryEnd b met lines) s
      (e.state = .recovering .stretch → result = .next (if rec.result = .success
        then ((s.setEngine b { e' with state := .idle, work := .none }).complete p .timeout
          r.bytesDone).checkDrain lines
        else v.enterFault b .stretch .timeout lines)) ∧
      ∀ a, e.state = .recovering (.lineCheck a) ∨ e.state = .active (.lineWait a) →
        result = .next (match rec.result with
          | .success => s.setEngine b { e' with
              state := .active (.onBus a (match a, r.kind with
                | .poll _, _ => pollPlan r.snapshot
                | .operation, .read => readPlan r.snapshot r.offset r.count
                | .operation, _ =>
                  writePlan r.snapshot r.nextStart (r.segmentData s.imageBuffer))) }
          | .clockFailed => v.enterFault b .stuckClock .busfault lines
          | .dataFailed => v.enterFault b .stuckData .busfault lines)

/-- R99, R100, R82, R89: the clock stuck in a line check enters FAULT; what the entry does, in its order:
the engine and its queue, the active work, the records that were queued, head first, and one BUS-FAULT
notice to each session concerned at the entry. LINE_CHECK_CLOCK_STUCK acts on an engine waiting for the
clock (notes/assumptions/6.md), and retries used stays in FAULT (notes/assumptions/26.md): the model's
choices. -/
def Obligations.FaultEntryByRule : Prop :=
  ∀ (s : State) (b : BusIx) (lines : LineLevels),
    (∀ a, (s.engine b).state = .active (.lineWait a) → exec (.lineCheckClockStuck b lines) s =
      .next (s.enterFault b .stuckClock .busfault lines)) ∧
    (∀ l, l ∈ s.concernedSessions b ↔ s.session l ≠ .closed ∧ ∃ i t g,
      ((∃ w, (s.slot i).body = .waiting w ∧ w.owner = l ∧ w.target = t) ∨
        ∃ h, (s.slot i).body = .held h ∧ h.owner = l ∧ h.target = t) ∧
      (s.entry t).body.fields? = some g ∧ g.busIx = b) ∧
    ∀ reason status,
      let v := (s.setEngine b { s.engine b with
        state := .fault, lastFault := reason, work := .none }).setBusQueue b []
      let finish := fun (w : State) => ((s.concernedSessions b).foldl
        (fun x l => x.offerNotice l ⟨.bus b, .busFault reason⟩)
        ((s.busQueue b).foldl (fun x p => x.complete p .busfault 0) w)).checkDrain lines
      (∀ p r, (s.engine b).work = .record p → s.record p = some r →
        s.enterFault b reason status lines = finish (v.complete p status r.bytesDone)) ∧
      (∀ j, (s.engine b).work = .load → s.load = some j →
        s.enterFault b reason status lines = finish (((v.setReport { s.report with
          outcome := if j.stage = .signature then .busFault else .partialLoad }).setLoad
            none).setPart .ready))

/-- R102, R103: BUS-RESTORE of a faulted bus starts a recovery with the response's place reserved and the
intake held; at its end the engine is IDLE or back in FAULT, the response takes the place, or is
discarded where the place was lost with the link, and the notices or the queued records follow. The place
of a FAILED response among completions handed to the same link is free (notes/assumptions/9.md). Retries
used stays (notes/assumptions/26.md) and the engine keeps what it gave on its bus
(notes/assumptions/28.md): the model's choices. -/
def Obligations.BusRestoreByRule : Prop :=
  (∀ (s : State) (l : Link) (f : Frame) (rest : List Frame), s.Admits l .busRestore f rest →
    let u := s.taking l rest
    (1 < (byteAt f.body 0).toNat → exec (.busRestore l) s = .next (u.answer l f.tag .badreq [])) ∧
    ∀ b : BusIx, b.val = (byteAt f.body 0).toNat → exec (.busRestore l) s = .next (
      if (s.engine b).state = .fault then
        (u.setEngine b { s.engine b with state := .recovering .restore, work := .restore }).setLink l
          { u.link l with restoreHold := some (b, f.tag) }
      else u.answer l f.tag .badstate [])) ∧
  ∀ (s : State) (l : Link) (b : BusIx) (tag : Byte) (lines : LineLevels) (met : List LineLevels)
    (rec : Recovery), (s.engine b).state = .recovering .restore →
    (s.link l).restoreHold = some (b, tag) →
    (∀ k, k ≠ l → ∀ x, (s.link k).restoreHold ≠ some (b, x)) → runRecovery met = some rec →
    let e := { s.engine b with given := ⟨0, rec.given⟩ }
    let u := s.link l
    let done := (s.setEngine b { e with state := .idle, work := .none }).setLink l
      (if u.reserved then { u with
          outbound := u.outbound ++ [⟨tag, .ok, []⟩], reserved := false, restoreHold := none }
        else { u with restoreHold := none })
    (rec.result = .success → exec (.recoveryEnd b met lines) s = .next ((s.concernedSessions b).foldl
      (fun x k => x.offerNotice k ⟨.bus b, .busRestored⟩) done)) ∧
    ∀ reason, (rec.result = .clockFailed ∧ reason = FaultReason.stuckClock ∨
        rec.result = .dataFailed ∧ reason = FaultReason.stuckData) →
      let v := (s.busQueue b).foldl (fun x p => x.complete p .busfault 0)
        ((s.setEngine b { e with state := .fault, lastFault := reason, work := .none }).setBusQueue b [])
      let w := v.setLink l { v.link l with restoreHold := none }
      exec (.recoveryEnd b met lines) s = .next (if u.reserved
        then w.answerAmong u.outbound.length l tag .failed [reason.code] else w)

/-! ### Formats (9.9) -/

/-- R152, R159, R124, Tables 9-1 to 9-8, 7-1: the codes of requests, statuses, enumerated values and
notices, with the class of a notice; and what is written is read back: a target's fields from its 14 bytes
anywhere in a body, and a whole request frame, sent character by character to the framer of an UP link in
HUNT, joins the request queue as it was. LOADING, which Table 9-7 does not list, is left out
(notes/assumptions/10.md). -/
def Obligations.FormatsReadBack : Prop :=
  ([Status.ok, .waiting, .badreq, .nosession, .starting, .denied, .stale, .ended, .notheld, .mode,
      .inflight, .bounds, .qfull, .busfault].map Status.code =
    [0x00, 0x01, 0x10, 0x11, 0x12, 0x13, 0x14, 0x15, 0x16, 0x17, 0x18, 0x19, 0x1A, 0x1B]) ∧
  ([Status.notarget, .duplicate, .contended, .crowded, .full, .overquota, .conflict, .inuse, .clash,
      .saving, .badstate, .noack, .datanak, .busytimeout, .timeout, .cut, .lapsed, .revoked, .failed,
      .reject].map Status.code =
    [0x20, 0x21, 0x22, 0x23, 0x24, 0x25, 0x26, 0x30, 0x31, 0x32, 0x33, 0x40, 0x41, 0x42, 0x43, 0x44,
      0x45, 0x46, 0x47, 0x7F]) ∧
  ([Request.hello, .bye, .openLease, .renew, .release, .changeMode, .read, .write, .collect,
      .queryTarget, .querySlot, .queryBus, .queryLink, .queryStart, .setTarget, .dropTarget,
      .setRights, .revoke, .busRestore, .saveCatalogue, .restart].map Request.code =
    [0x01, 0x02, 0x10, 0x11, 0x12, 0x13, 0x20, 0x21, 0x30, 0x40, 0x41, 0x42, 0x43, 0x44, 0x50, 0x51,
      0x52, 0x53, 0x54, 0x55, 0x56]) ∧
  ([Mode.shared, .exclusive].map Mode.code = [0, 1] ∧
    [SlotState.free, .waiting, .held, .ending].map SlotState.code = [0, 1, 2, 3] ∧
    [EndCause.lapsed, .revoked, .session, .dropped].map EndCause.code = [1, 2, 3, 4] ∧
    [FaultReason.none, .stuckData, .stuckClock, .stretch].map FaultReason.code = [0, 1, 2, 3] ∧
    [LineState.down, .up].map LineState.code = [0, 1] ∧
    [TxKind.read, .write, .store].map TxKind.code = [0, 1, 2] ∧
    [LoadOutcome.loaded, .loadedWithDefects, .partialLoad, .noSignature, .noStore,
      .busFault].map LoadOutcome.code = [0, 1, 2, 3, 4, 5] ∧
    [DefectReason.none, .badcheck, .unknown, .invalid, .duplicate].map DefectReason.code =
      [0, 1, 2, 3, 4] ∧
    [RejectReason.badchar, .badlength, .badcheck, .gap, .overrun].map RejectReason.code =
      [1, 2, 3, 4, 5] ∧
    [RevokeReason.supervisor, .dropped].map RevokeReason.code = [0, 1] ∧
    [WaitEndReason.expired, .dropped].map WaitEndReason.code = [0, 1] ∧
    (∀ b, scopeOf b = if b = 0 then some .keep else if b = 1 then some .reload else none) ∧
    ∀ (f : TargetFields) (a : Activity) (c : RecoveryCause) (key d : Nat),
      [EntryBody.absent, .present f, .retiring f].map EntryBody.code = [0, 1, 2] ∧
      [EngineState.idle, .active a, .recovering c, .fault].map EngineState.code = [0, 1, 2, 3] ∧
      [Session.closed, .opened key, .suspended key d].map Session.code = [0, 1, 2]) ∧
  (∀ (x : Subject) (revoked : RevokeReason) (left : SlotState) (fault : FaultReason) (m : Mode)
      (up : Bool) (n : Nat) (ended : WaitEndReason) (tag : Byte) (status : Status) (kind : TxKind),
    let flag : Byte := if up then 1 else 0
    let subject := match x with
      | .handle i g => [byteOf i, byteOf (g / 256), byteOf g]
      | .bus b => [byteOf b.val, 0, 0]
    let holds := fun (d : Detail) (k : Byte) (cls : Nat) (detail : List Byte) =>
      Notice.bytes ⟨x, d⟩ = k :: subject ++ detail ∧ Notice.cls ⟨x, d⟩ = cls
    holds (.revoked revoked left) 1 1 [revoked.code, left.code, 0, 0] ∧
    holds (.lapsed left) 2 1 [left.code, 0, 0, 0] ∧
    holds (.busFault fault) 3 1 [fault.code, 0, 0, 0] ∧
    holds (.granted m up n) 4 2 [m.code, flag, byteOf (n / 256), byteOf n] ∧
    holds (.waitEnded ended up m) 5 2 [ended.code, flag, m.code, 0] ∧
    holds (.doneUnseen tag status kind n) 6 2 [tag, status.code, kind.code, byteOf n] ∧
    holds (.lapsing n) 7 3 [byteOf (n / 256), byteOf n, 0, 0] ∧
    holds .busRestored 8 3 [0, 0, 0, 0]) ∧
  (∀ (f : TargetFields) (front rest : List Byte), f.valid = true →
    fieldsAt (front ++ fieldBytes f ++ rest) front.length = f) ∧
  ∀ (s : State) (l : Link) (f : Frame), (s.link l).line = .up → (s.link l).framer = .hunt →
    (s.link l).requestQueue.length < 4 → f.body.length ≤ 78 →
    execAll ((requestCharacters f).map (Instr.characterReceived l)) s =
      .next (s.setLink l { s.link l with
        requestQueue := (s.link l).requestQueue ++ [f]
        hold := (s.link l).hold || (s.link l).requestQueue.length == 2 })

/-! ### Laws that every step keeps -/

/-- The laws hold after reset. -/
def Obligations.LawsHoldAtReset : Prop :=
  State.reset.HolderLaw ∧ State.reset.OneSlotLaw ∧ State.reset.GenerationLaw ∧ State.reset.WaitLaw ∧
    State.reset.NoticeLaw ∧ State.reset.ClosedLaw ∧ State.reset.CatalogueLaw ∧
    State.reset.LinkLaw ∧ State.reset.EngineLaw ∧ State.reset.TransactionLaw

/-- R27, R8, R2: every step keeps the lease table's laws: a holder set is SHARED slots or one EXCLUSIVE
slot alone, a session has one slot on a target at most, and a generation is 1 to 65535. -/
def Obligations.LeaseLawsKept : Prop :=
  ∀ s t : State, step s = .next t → (s.HolderLaw → t.HolderLaw) ∧ (s.OneSlotLaw → t.OneSlotLaw) ∧
    (s.GenerationLaw → t.GenerationLaw)

/-- R29, R30, R33, R134, R49, R50, R52, R54: every step keeps the law of the wait queues, and the law of
the catalogue. -/
def Obligations.QueueAndCatalogueLawsKept : Prop :=
  ∀ s t : State, step s = .next t → (s.WaitLaw → t.WaitLaw) ∧ (s.CatalogueLaw → t.CatalogueLaw)

/-- R126 to R130, R133, R4, R116, R108, R150 to R158: every step keeps the law of the notice queues, the
law that a CLOSED session has nothing, and the law of the link units, by which an OPEN session has its
link UP. -/
def Obligations.SessionAndLinkLawsKept : Prop :=
  ∀ s t : State, step s = .next t → (s.NoticeLaw → t.NoticeLaw) ∧ (s.ClosedLaw → t.ClosedLaw) ∧
    (s.LinkLaw → t.LinkLaw)

/-- R66 to R68, R82, R87, R101: every step keeps the laws of the bus engines and of the transaction unit
together. -/
def Obligations.TransactionLawKept : Prop :=
  ∀ s t : State, step s = .next t → s.EngineLaw → s.TransactionLaw → t.EngineLaw ∧ t.TransactionLaw
end

