-- ==== Sys2Proof/Laws/State.lean ====
section
/-! SUPPORT. The state's records and their updates: what each update writes and what it leaves, so that
no later proof unfolds a record update. Each `_frame` lemma lists every field its update leaves; simp
takes it as one rewrite for each field. -/

namespace Sys2Proof.Machine

variable (s : State)

/-! ### setSlot -/

@[simp] theorem State.setSlot_frame (i : SlotIx) (x : Slot) :
    (s.setSlot i x).pending = s.pending ∧ (s.setSlot i x).now = s.now ∧
    (s.setSlot i x).freeCount = s.freeCount ∧ (s.setSlot i x).supervisor = s.supervisor ∧
    (s.setSlot i x).rate = s.rate ∧ (s.setSlot i x).part = s.part ∧
    (s.setSlot i x).restart = s.restart ∧ (s.setSlot i x).load = s.load ∧
    (s.setSlot i x).report = s.report ∧ (s.setSlot i x).imageBuffer = s.imageBuffer ∧
    (s.setSlot i x).saveJob = s.saveJob ∧ (∀ k, (s.setSlot i x).entry k = s.entry k) ∧
    (∀ k, (s.setSlot i x).rightsOf k = s.rightsOf k) ∧
    (∀ k, (s.setSlot i x).record k = s.record k) ∧
    (∀ k, (s.setSlot i x).waitingDone k = s.waitingDone k) ∧
    (∀ k, (s.setSlot i x).busQueue k = s.busQueue k) ∧
    (∀ k, (s.setSlot i x).engine k = s.engine k) ∧ (∀ k, (s.setSlot i x).session k = s.session k) ∧
    (∀ k, (s.setSlot i x).notice k = s.notice k) ∧ (∀ k, (s.setSlot i x).link k = s.link k) :=
  ⟨rfl, rfl, rfl, rfl, rfl, rfl, rfl, rfl, rfl, rfl, rfl, fun _ => rfl, fun _ => rfl, fun _ => rfl,
    fun _ => rfl, fun _ => rfl, fun _ => rfl, fun _ => rfl, fun _ => rfl, fun _ => rfl⟩

@[simp] theorem State.slot_setSlot_self (i : SlotIx) (x : Slot) : (s.setSlot i x).slot i = x :=
  Vector.getElem_set_self i.isLt

theorem State.slot_setSlot (i k : SlotIx) (x : Slot) :
    (s.setSlot i x).slot k = if i = k then x else s.slot k := by
  simp [State.slot, State.setSlot, Vector.getElem_set, Fin.ext_iff]

@[simp] theorem State.slot_setSlot_ne {i k : SlotIx} (h : k ≠ i) (x : Slot) :
    (s.setSlot i x).slot k = s.slot k := by
  rw [State.slot_setSlot, if_neg h.symm]

@[simp] theorem State.setSlot_setSlot (i : SlotIx) (x y : Slot) :
    (s.setSlot i x).setSlot i y = s.setSlot i y := by
  simp [State.setSlot]

@[simp] theorem State.setSlot_slot (i : SlotIx) : s.setSlot i (s.slot i) = s := by
  simp [State.setSlot, State.slot]

/-! ### setEntry -/

@[simp] theorem State.setEntry_frame (i : EntryIx) (x : Entry) :
    (s.setEntry i x).pending = s.pending ∧ (s.setEntry i x).now = s.now ∧
    (s.setEntry i x).freeCount = s.freeCount ∧ (s.setEntry i x).supervisor = s.supervisor ∧
    (s.setEntry i x).rate = s.rate ∧ (s.setEntry i x).part = s.part ∧
    (s.setEntry i x).restart = s.restart ∧ (s.setEntry i x).load = s.load ∧
    (s.setEntry i x).report = s.report ∧ (s.setEntry i x).imageBuffer = s.imageBuffer ∧
    (s.setEntry i x).saveJob = s.saveJob ∧ (∀ k, (s.setEntry i x).slot k = s.slot k) ∧
    (∀ k, (s.setEntry i x).rightsOf k = s.rightsOf k) ∧
    (∀ k, (s.setEntry i x).record k = s.record k) ∧
    (∀ k, (s.setEntry i x).waitingDone k = s.waitingDone k) ∧
    (∀ k, (s.setEntry i x).busQueue k = s.busQueue k) ∧
    (∀ k, (s.setEntry i x).engine k = s.engine k) ∧
    (∀ k, (s.setEntry i x).session k = s.session k) ∧
    (∀ k, (s.setEntry i x).notice k = s.notice k) ∧ (∀ k, (s.setEntry i x).link k = s.link k) :=
  ⟨rfl, rfl, rfl, rfl, rfl, rfl, rfl, rfl, rfl, rfl, rfl, fun _ => rfl, fun _ => rfl, fun _ => rfl,
    fun _ => rfl, fun _ => rfl, fun _ => rfl, fun _ => rfl, fun _ => rfl, fun _ => rfl⟩

@[simp] theorem State.entry_setEntry_self (i : EntryIx) (x : Entry) : (s.setEntry i x).entry i = x :=
  Vector.getElem_set_self i.isLt

theorem State.entry_setEntry (i k : EntryIx) (x : Entry) :
    (s.setEntry i x).entry k = if i = k then x else s.entry k := by
  simp [State.entry, State.setEntry, Vector.getElem_set, Fin.ext_iff]

@[simp] theorem State.entry_setEntry_ne {i k : EntryIx} (h : k ≠ i) (x : Entry) :
    (s.setEntry i x).entry k = s.entry k := by
  rw [State.entry_setEntry, if_neg h.symm]

@[simp] theorem State.setEntry_setEntry (i : EntryIx) (x y : Entry) :
    (s.setEntry i x).setEntry i y = s.setEntry i y := by
  simp [State.setEntry]

@[simp] theorem State.setEntry_entry (i : EntryIx) : s.setEntry i (s.entry i) = s := by
  simp [State.setEntry, State.entry]

/-! ### setRights -/

@[simp] theorem State.setRights_frame (i : Link) (x : Rights) :
    (s.setRights i x).pending = s.pending ∧ (s.setRights i x).now = s.now ∧
    (s.setRights i x).freeCount = s.freeCount ∧ (s.setRights i x).supervisor = s.supervisor ∧
    (s.setRights i x).rate = s.rate ∧ (s.setRights i x).part = s.part ∧
    (s.setRights i x).restart = s.restart ∧ (s.setRights i x).load = s.load ∧
    (s.setRights i x).report = s.report ∧ (s.setRights i x).imageBuffer = s.imageBuffer ∧
    (s.setRights i x).saveJob = s.saveJob ∧ (∀ k, (s.setRights i x).slot k = s.slot k) ∧
    (∀ k, (s.setRights i x).entry k = s.entry k) ∧ (∀ k, (s.setRights i x).record k = s.record k) ∧
    (∀ k, (s.setRights i x).waitingDone k = s.waitingDone k) ∧
    (∀ k, (s.setRights i x).busQueue k = s.busQueue k) ∧
    (∀ k, (s.setRights i x).engine k = s.engine k) ∧
    (∀ k, (s.setRights i x).session k = s.session k) ∧
    (∀ k, (s.setRights i x).notice k = s.notice k) ∧ (∀ k, (s.setRights i x).link k = s.link k) :=
  ⟨rfl, rfl, rfl, rfl, rfl, rfl, rfl, rfl, rfl, rfl, rfl, fun _ => rfl, fun _ => rfl, fun _ => rfl,
    fun _ => rfl, fun _ => rfl, fun _ => rfl, fun _ => rfl, fun _ => rfl, fun _ => rfl⟩

@[simp] theorem State.rightsOf_setRights_self (i : Link) (x : Rights) : (s.setRights i x).rightsOf i = x :=
  Vector.getElem_set_self i.isLt

theorem State.rightsOf_setRights (i k : Link) (x : Rights) :
    (s.setRights i x).rightsOf k = if i = k then x else s.rightsOf k := by
  simp [State.rightsOf, State.setRights, Vector.getElem_set, Fin.ext_iff]

@[simp] theorem State.rightsOf_setRights_ne {i k : Link} (h : k ≠ i) (x : Rights) :
    (s.setRights i x).rightsOf k = s.rightsOf k := by
  rw [State.rightsOf_setRights, if_neg h.symm]

@[simp] theorem State.setRights_setRights (i : Link) (x y : Rights) :
    (s.setRights i x).setRights i y = s.setRights i y := by
  simp [State.setRights]

@[simp] theorem State.setRights_rightsOf (i : Link) : s.setRights i (s.rightsOf i) = s := by
  simp [State.setRights, State.rightsOf]

/-! ### setRecord -/

@[simp] theorem State.setRecord_frame (i : PoolIx) (x : Option Record) :
    (s.setRecord i x).pending = s.pending ∧ (s.setRecord i x).now = s.now ∧
    (s.setRecord i x).freeCount = s.freeCount ∧ (s.setRecord i x).supervisor = s.supervisor ∧
    (s.setRecord i x).rate = s.rate ∧ (s.setRecord i x).part = s.part ∧
    (s.setRecord i x).restart = s.restart ∧ (s.setRecord i x).load = s.load ∧
    (s.setRecord i x).report = s.report ∧ (s.setRecord i x).imageBuffer = s.imageBuffer ∧
    (s.setRecord i x).saveJob = s.saveJob ∧ (∀ k, (s.setRecord i x).slot k = s.slot k) ∧
    (∀ k, (s.setRecord i x).entry k = s.entry k) ∧
    (∀ k, (s.setRecord i x).rightsOf k = s.rightsOf k) ∧
    (∀ k, (s.setRecord i x).waitingDone k = s.waitingDone k) ∧
    (∀ k, (s.setRecord i x).busQueue k = s.busQueue k) ∧
    (∀ k, (s.setRecord i x).engine k = s.engine k) ∧
    (∀ k, (s.setRecord i x).session k = s.session k) ∧
    (∀ k, (s.setRecord i x).notice k = s.notice k) ∧ (∀ k, (s.setRecord i x).link k = s.link k) :=
  ⟨rfl, rfl, rfl, rfl, rfl, rfl, rfl, rfl, rfl, rfl, rfl, fun _ => rfl, fun _ => rfl, fun _ => rfl,
    fun _ => rfl, fun _ => rfl, fun _ => rfl, fun _ => rfl, fun _ => rfl, fun _ => rfl⟩

@[simp] theorem State.record_setRecord_self (i : PoolIx) (x : Option Record) : (s.setRecord i x).record i = x :=
  Vector.getElem_set_self i.isLt

theorem State.record_setRecord (i k : PoolIx) (x : Option Record) :
    (s.setRecord i x).record k = if i = k then x else s.record k := by
  simp [State.record, State.setRecord, Vector.getElem_set, Fin.ext_iff]

@[simp] theorem State.record_setRecord_ne {i k : PoolIx} (h : k ≠ i) (x : Option Record) :
    (s.setRecord i x).record k = s.record k := by
  rw [State.record_setRecord, if_neg h.symm]

@[simp] theorem State.setRecord_setRecord (i : PoolIx) (x y : Option Record) :
    (s.setRecord i x).setRecord i y = s.setRecord i y := by
  simp [State.setRecord]

@[simp] theorem State.setRecord_record (i : PoolIx) : s.setRecord i (s.record i) = s := by
  simp [State.setRecord, State.record]

/-! ### setWaitingDone -/

@[simp] theorem State.setWaitingDone_frame (i : Link) (x : List PoolIx) :
    (s.setWaitingDone i x).pending = s.pending ∧ (s.setWaitingDone i x).now = s.now ∧
    (s.setWaitingDone i x).freeCount = s.freeCount ∧
    (s.setWaitingDone i x).supervisor = s.supervisor ∧ (s.setWaitingDone i x).rate = s.rate ∧
    (s.setWaitingDone i x).part = s.part ∧ (s.setWaitingDone i x).restart = s.restart ∧
    (s.setWaitingDone i x).load = s.load ∧ (s.setWaitingDone i x).report = s.report ∧
    (s.setWaitingDone i x).imageBuffer = s.imageBuffer ∧
    (s.setWaitingDone i x).saveJob = s.saveJob ∧ (∀ k, (s.setWaitingDone i x).slot k = s.slot k) ∧
    (∀ k, (s.setWaitingDone i x).entry k = s.entry k) ∧
    (∀ k, (s.setWaitingDone i x).rightsOf k = s.rightsOf k) ∧
    (∀ k, (s.setWaitingDone i x).record k = s.record k) ∧
    (∀ k, (s.setWaitingDone i x).busQueue k = s.busQueue k) ∧
    (∀ k, (s.setWaitingDone i x).engine k = s.engine k) ∧
    (∀ k, (s.setWaitingDone i x).session k = s.session k) ∧
    (∀ k, (s.setWaitingDone i x).notice k = s.notice k) ∧
    (∀ k, (s.setWaitingDone i x).link k = s.link k) :=
  ⟨rfl, rfl, rfl, rfl, rfl, rfl, rfl, rfl, rfl, rfl, rfl, fun _ => rfl, fun _ => rfl, fun _ => rfl,
    fun _ => rfl, fun _ => rfl, fun _ => rfl, fun _ => rfl, fun _ => rfl, fun _ => rfl⟩

@[simp] theorem State.waitingDone_setWaitingDone_self (i : Link) (x : List PoolIx) : (s.setWaitingDone i x).waitingDone i = x :=
  Vector.getElem_set_self i.isLt

theorem State.waitingDone_setWaitingDone (i k : Link) (x : List PoolIx) :
    (s.setWaitingDone i x).waitingDone k = if i = k then x else s.waitingDone k := by
  simp [State.waitingDone, State.setWaitingDone, Vector.getElem_set, Fin.ext_iff]

@[simp] theorem State.waitingDone_setWaitingDone_ne {i k : Link} (h : k ≠ i) (x : List PoolIx) :
    (s.setWaitingDone i x).waitingDone k = s.waitingDone k := by
  rw [State.waitingDone_setWaitingDone, if_neg h.symm]

@[simp] theorem State.setWaitingDone_setWaitingDone (i : Link) (x y : List PoolIx) :
    (s.setWaitingDone i x).setWaitingDone i y = s.setWaitingDone i y := by
  simp [State.setWaitingDone]

@[simp] theorem State.setWaitingDone_waitingDone (i : Link) : s.setWaitingDone i (s.waitingDone i) = s := by
  simp [State.setWaitingDone, State.waitingDone]

/-! ### setBusQueue -/

@[simp] theorem State.setBusQueue_frame (i : BusIx) (x : List PoolIx) :
    (s.setBusQueue i x).pending = s.pending ∧ (s.setBusQueue i x).now = s.now ∧
    (s.setBusQueue i x).freeCount = s.freeCount ∧ (s.setBusQueue i x).supervisor = s.supervisor ∧
    (s.setBusQueue i x).rate = s.rate ∧ (s.setBusQueue i x).part = s.part ∧
    (s.setBusQueue i x).restart = s.restart ∧ (s.setBusQueue i x).load = s.load ∧
    (s.setBusQueue i x).report = s.report ∧ (s.setBusQueue i x).imageBuffer = s.imageBuffer ∧
    (s.setBusQueue i x).saveJob = s.saveJob ∧ (∀ k, (s.setBusQueue i x).slot k = s.slot k) ∧
    (∀ k, (s.setBusQueue i x).entry k = s.entry k) ∧
    (∀ k, (s.setBusQueue i x).rightsOf k = s.rightsOf k) ∧
    (∀ k, (s.setBusQueue i x).record k = s.record k) ∧
    (∀ k, (s.setBusQueue i x).waitingDone k = s.waitingDone k) ∧
    (∀ k, (s.setBusQueue i x).engine k = s.engine k) ∧
    (∀ k, (s.setBusQueue i x).session k = s.session k) ∧
    (∀ k, (s.setBusQueue i x).notice k = s.notice k) ∧
    (∀ k, (s.setBusQueue i x).link k = s.link k) :=
  ⟨rfl, rfl, rfl, rfl, rfl, rfl, rfl, rfl, rfl, rfl, rfl, fun _ => rfl, fun _ => rfl, fun _ => rfl,
    fun _ => rfl, fun _ => rfl, fun _ => rfl, fun _ => rfl, fun _ => rfl, fun _ => rfl⟩

@[simp] theorem State.busQueue_setBusQueue_self (i : BusIx) (x : List PoolIx) : (s.setBusQueue i x).busQueue i = x :=
  Vector.getElem_set_self i.isLt

theorem State.busQueue_setBusQueue (i k : BusIx) (x : List PoolIx) :
    (s.setBusQueue i x).busQueue k = if i = k then x else s.busQueue k := by
  simp [State.busQueue, State.setBusQueue, Vector.getElem_set, Fin.ext_iff]

@[simp] theorem State.busQueue_setBusQueue_ne {i k : BusIx} (h : k ≠ i) (x : List PoolIx) :
    (s.setBusQueue i x).busQueue k = s.busQueue k := by
  rw [State.busQueue_setBusQueue, if_neg h.symm]

@[simp] theorem State.setBusQueue_setBusQueue (i : BusIx) (x y : List PoolIx) :
    (s.setBusQueue i x).setBusQueue i y = s.setBusQueue i y := by
  simp [State.setBusQueue]

@[simp] theorem State.setBusQueue_busQueue (i : BusIx) : s.setBusQueue i (s.busQueue i) = s := by
  simp [State.setBusQueue, State.busQueue]

/-! ### setEngine -/

@[simp] theorem State.setEngine_frame (i : BusIx) (x : Engine) :
    (s.setEngine i x).pending = s.pending ∧ (s.setEngine i x).now = s.now ∧
    (s.setEngine i x).freeCount = s.freeCount ∧ (s.setEngine i x).supervisor = s.supervisor ∧
    (s.setEngine i x).rate = s.rate ∧ (s.setEngine i x).part = s.part ∧
    (s.setEngine i x).restart = s.restart ∧ (s.setEngine i x).load = s.load ∧
    (s.setEngine i x).report = s.report ∧ (s.setEngine i x).imageBuffer = s.imageBuffer ∧
    (s.setEngine i x).saveJob = s.saveJob ∧ (∀ k, (s.setEngine i x).slot k = s.slot k) ∧
    (∀ k, (s.setEngine i x).entry k = s.entry k) ∧
    (∀ k, (s.setEngine i x).rightsOf k = s.rightsOf k) ∧
    (∀ k, (s.setEngine i x).record k = s.record k) ∧
    (∀ k, (s.setEngine i x).waitingDone k = s.waitingDone k) ∧
    (∀ k, (s.setEngine i x).busQueue k = s.busQueue k) ∧
    (∀ k, (s.setEngine i x).session k = s.session k) ∧
    (∀ k, (s.setEngine i x).notice k = s.notice k) ∧ (∀ k, (s.setEngine i x).link k = s.link k) :=
  ⟨rfl, rfl, rfl, rfl, rfl, rfl, rfl, rfl, rfl, rfl, rfl, fun _ => rfl, fun _ => rfl, fun _ => rfl,
    fun _ => rfl, fun _ => rfl, fun _ => rfl, fun _ => rfl, fun _ => rfl, fun _ => rfl⟩

@[simp] theorem State.engine_setEngine_self (i : BusIx) (x : Engine) : (s.setEngine i x).engine i = x :=
  Vector.getElem_set_self i.isLt

theorem State.engine_setEngine (i k : BusIx) (x : Engine) :
    (s.setEngine i x).engine k = if i = k then x else s.engine k := by
  simp [State.engine, State.setEngine, Vector.getElem_set, Fin.ext_iff]

@[simp] theorem State.engine_setEngine_ne {i k : BusIx} (h : k ≠ i) (x : Engine) :
    (s.setEngine i x).engine k = s.engine k := by
  rw [State.engine_setEngine, if_neg h.symm]

@[simp] theorem State.setEngine_setEngine (i : BusIx) (x y : Engine) :
    (s.setEngine i x).setEngine i y = s.setEngine i y := by
  simp [State.setEngine]

@[simp] theorem State.setEngine_engine (i : BusIx) : s.setEngine i (s.engine i) = s := by
  simp [State.setEngine, State.engine]

/-! ### setSession -/

@[simp] theorem State.setSession_frame (i : Link) (x : Session) :
    (s.setSession i x).pending = s.pending ∧ (s.setSession i x).now = s.now ∧
    (s.setSession i x).freeCount = s.freeCount ∧ (s.setSession i x).supervisor = s.supervisor ∧
    (s.setSession i x).rate = s.rate ∧ (s.setSession i x).part = s.part ∧
    (s.setSession i x).restart = s.restart ∧ (s.setSession i x).load = s.load ∧
    (s.setSession i x).report = s.report ∧ (s.setSession i x).imageBuffer = s.imageBuffer ∧
    (s.setSession i x).saveJob = s.saveJob ∧ (∀ k, (s.setSession i x).slot k = s.slot k) ∧
    (∀ k, (s.setSession i x).entry k = s.entry k) ∧
    (∀ k, (s.setSession i x).rightsOf k = s.rightsOf k) ∧
    (∀ k, (s.setSession i x).record k = s.record k) ∧
    (∀ k, (s.setSession i x).waitingDone k = s.waitingDone k) ∧
    (∀ k, (s.setSession i x).busQueue k = s.busQueue k) ∧
    (∀ k, (s.setSession i x).engine k = s.engine k) ∧
    (∀ k, (s.setSession i x).notice k = s.notice k) ∧ (∀ k, (s.setSession i x).link k = s.link k) :=
  ⟨rfl, rfl, rfl, rfl, rfl, rfl, rfl, rfl, rfl, rfl, rfl, fun _ => rfl, fun _ => rfl, fun _ => rfl,
    fun _ => rfl, fun _ => rfl, fun _ => rfl, fun _ => rfl, fun _ => rfl, fun _ => rfl⟩

@[simp] theorem State.session_setSession_self (i : Link) (x : Session) : (s.setSession i x).session i = x :=
  Vector.getElem_set_self i.isLt

theorem State.session_setSession (i k : Link) (x : Session) :
    (s.setSession i x).session k = if i = k then x else s.session k := by
  simp [State.session, State.setSession, Vector.getElem_set, Fin.ext_iff]

@[simp] theorem State.session_setSession_ne {i k : Link} (h : k ≠ i) (x : Session) :
    (s.setSession i x).session k = s.session k := by
  rw [State.session_setSession, if_neg h.symm]

@[simp] theorem State.setSession_setSession (i : Link) (x y : Session) :
    (s.setSession i x).setSession i y = s.setSession i y := by
  simp [State.setSession]

@[simp] theorem State.setSession_session (i : Link) : s.setSession i (s.session i) = s := by
  simp [State.setSession, State.session]

/-! ### setNotice -/

@[simp] theorem State.setNotice_frame (i : Link) (x : NoticeUnit) :
    (s.setNotice i x).pending = s.pending ∧ (s.setNotice i x).now = s.now ∧
    (s.setNotice i x).freeCount = s.freeCount ∧ (s.setNotice i x).supervisor = s.supervisor ∧
    (s.setNotice i x).rate = s.rate ∧ (s.setNotice i x).part = s.part ∧
    (s.setNotice i x).restart = s.restart ∧ (s.setNotice i x).load = s.load ∧
    (s.setNotice i x).report = s.report ∧ (s.setNotice i x).imageBuffer = s.imageBuffer ∧
    (s.setNotice i x).saveJob = s.saveJob ∧ (∀ k, (s.setNotice i x).slot k = s.slot k) ∧
    (∀ k, (s.setNotice i x).entry k = s.entry k) ∧
    (∀ k, (s.setNotice i x).rightsOf k = s.rightsOf k) ∧
    (∀ k, (s.setNotice i x).record k = s.record k) ∧
    (∀ k, (s.setNotice i x).waitingDone k = s.waitingDone k) ∧
    (∀ k, (s.setNotice i x).busQueue k = s.busQueue k) ∧
    (∀ k, (s.setNotice i x).engine k = s.engine k) ∧
    (∀ k, (s.setNotice i x).session k = s.session k) ∧ (∀ k, (s.setNotice i x).link k = s.link k) :=
  ⟨rfl, rfl, rfl, rfl, rfl, rfl, rfl, rfl, rfl, rfl, rfl, fun _ => rfl, fun _ => rfl, fun _ => rfl,
    fun _ => rfl, fun _ => rfl, fun _ => rfl, fun _ => rfl, fun _ => rfl, fun _ => rfl⟩

@[simp] theorem State.notice_setNotice_self (i : Link) (x : NoticeUnit) : (s.setNotice i x).notice i = x :=
  Vector.getElem_set_self i.isLt

theorem State.notice_setNotice (i k : Link) (x : NoticeUnit) :
    (s.setNotice i x).notice k = if i = k then x else s.notice k := by
  simp [State.notice, State.setNotice, Vector.getElem_set, Fin.ext_iff]

@[simp] theorem State.notice_setNotice_ne {i k : Link} (h : k ≠ i) (x : NoticeUnit) :
    (s.setNotice i x).notice k = s.notice k := by
  rw [State.notice_setNotice, if_neg h.symm]

@[simp] theorem State.setNotice_setNotice (i : Link) (x y : NoticeUnit) :
    (s.setNotice i x).setNotice i y = s.setNotice i y := by
  simp [State.setNotice]

@[simp] theorem State.setNotice_notice (i : Link) : s.setNotice i (s.notice i) = s := by
  simp [State.setNotice, State.notice]

/-! ### setLink -/

@[simp] theorem State.setLink_frame (i : Link) (x : LinkUnit) :
    (s.setLink i x).pending = s.pending ∧ (s.setLink i x).now = s.now ∧
    (s.setLink i x).freeCount = s.freeCount ∧ (s.setLink i x).supervisor = s.supervisor ∧
    (s.setLink i x).rate = s.rate ∧ (s.setLink i x).part = s.part ∧
    (s.setLink i x).restart = s.restart ∧ (s.setLink i x).load = s.load ∧
    (s.setLink i x).report = s.report ∧ (s.setLink i x).imageBuffer = s.imageBuffer ∧
    (s.setLink i x).saveJob = s.saveJob ∧ (∀ k, (s.setLink i x).slot k = s.slot k) ∧
    (∀ k, (s.setLink i x).entry k = s.entry k) ∧ (∀ k, (s.setLink i x).rightsOf k = s.rightsOf k) ∧
    (∀ k, (s.setLink i x).record k = s.record k) ∧
    (∀ k, (s.setLink i x).waitingDone k = s.waitingDone k) ∧
    (∀ k, (s.setLink i x).busQueue k = s.busQueue k) ∧
    (∀ k, (s.setLink i x).engine k = s.engine k) ∧ (∀ k, (s.setLink i x).session k = s.session k) ∧
    (∀ k, (s.setLink i x).notice k = s.notice k) :=
  ⟨rfl, rfl, rfl, rfl, rfl, rfl, rfl, rfl, rfl, rfl, rfl, fun _ => rfl, fun _ => rfl, fun _ => rfl,
    fun _ => rfl, fun _ => rfl, fun _ => rfl, fun _ => rfl, fun _ => rfl, fun _ => rfl⟩

@[simp] theorem State.link_setLink_self (i : Link) (x : LinkUnit) : (s.setLink i x).link i = x :=
  Vector.getElem_set_self i.isLt

theorem State.link_setLink (i k : Link) (x : LinkUnit) :
    (s.setLink i x).link k = if i = k then x else s.link k := by
  simp [State.link, State.setLink, Vector.getElem_set, Fin.ext_iff]

@[simp] theorem State.link_setLink_ne {i k : Link} (h : k ≠ i) (x : LinkUnit) :
    (s.setLink i x).link k = s.link k := by
  rw [State.link_setLink, if_neg h.symm]

@[simp] theorem State.setLink_setLink (i : Link) (x y : LinkUnit) :
    (s.setLink i x).setLink i y = s.setLink i y := by
  simp [State.setLink]

@[simp] theorem State.setLink_link (i : Link) : s.setLink i (s.link i) = s := by
  simp [State.setLink, State.link]

/-! ### setPart -/

@[simp] theorem State.setPart_frame (x : PartState) :
    (s.setPart x).pending = s.pending ∧ (s.setPart x).now = s.now ∧
    (s.setPart x).freeCount = s.freeCount ∧ (s.setPart x).supervisor = s.supervisor ∧
    (s.setPart x).rate = s.rate ∧ (s.setPart x).restart = s.restart ∧ (s.setPart x).load = s.load ∧
    (s.setPart x).report = s.report ∧ (s.setPart x).imageBuffer = s.imageBuffer ∧
    (s.setPart x).saveJob = s.saveJob ∧ (∀ k, (s.setPart x).slot k = s.slot k) ∧
    (∀ k, (s.setPart x).entry k = s.entry k) ∧ (∀ k, (s.setPart x).rightsOf k = s.rightsOf k) ∧
    (∀ k, (s.setPart x).record k = s.record k) ∧
    (∀ k, (s.setPart x).waitingDone k = s.waitingDone k) ∧
    (∀ k, (s.setPart x).busQueue k = s.busQueue k) ∧ (∀ k, (s.setPart x).engine k = s.engine k) ∧
    (∀ k, (s.setPart x).session k = s.session k) ∧ (∀ k, (s.setPart x).notice k = s.notice k) ∧
    (∀ k, (s.setPart x).link k = s.link k) :=
  ⟨rfl, rfl, rfl, rfl, rfl, rfl, rfl, rfl, rfl, rfl, fun _ => rfl, fun _ => rfl, fun _ => rfl,
    fun _ => rfl, fun _ => rfl, fun _ => rfl, fun _ => rfl, fun _ => rfl, fun _ => rfl,
    fun _ => rfl⟩

@[simp] theorem State.part_setPart (x : PartState) : (s.setPart x).part = x := rfl

/-! ### setRestart -/

@[simp] theorem State.setRestart_frame (x : Option RestartJob) :
    (s.setRestart x).pending = s.pending ∧ (s.setRestart x).now = s.now ∧
    (s.setRestart x).freeCount = s.freeCount ∧ (s.setRestart x).supervisor = s.supervisor ∧
    (s.setRestart x).rate = s.rate ∧ (s.setRestart x).part = s.part ∧
    (s.setRestart x).load = s.load ∧ (s.setRestart x).report = s.report ∧
    (s.setRestart x).imageBuffer = s.imageBuffer ∧ (s.setRestart x).saveJob = s.saveJob ∧
    (∀ k, (s.setRestart x).slot k = s.slot k) ∧ (∀ k, (s.setRestart x).entry k = s.entry k) ∧
    (∀ k, (s.setRestart x).rightsOf k = s.rightsOf k) ∧
    (∀ k, (s.setRestart x).record k = s.record k) ∧
    (∀ k, (s.setRestart x).waitingDone k = s.waitingDone k) ∧
    (∀ k, (s.setRestart x).busQueue k = s.busQueue k) ∧
    (∀ k, (s.setRestart x).engine k = s.engine k) ∧
    (∀ k, (s.setRestart x).session k = s.session k) ∧
    (∀ k, (s.setRestart x).notice k = s.notice k) ∧ (∀ k, (s.setRestart x).link k = s.link k) :=
  ⟨rfl, rfl, rfl, rfl, rfl, rfl, rfl, rfl, rfl, rfl, fun _ => rfl, fun _ => rfl, fun _ => rfl,
    fun _ => rfl, fun _ => rfl, fun _ => rfl, fun _ => rfl, fun _ => rfl, fun _ => rfl,
    fun _ => rfl⟩

@[simp] theorem State.restart_setRestart (x : Option RestartJob) : (s.setRestart x).restart = x := rfl

/-! ### setLoad -/

@[simp] theorem State.setLoad_frame (x : Option LoadJob) :
    (s.setLoad x).pending = s.pending ∧ (s.setLoad x).now = s.now ∧
    (s.setLoad x).freeCount = s.freeCount ∧ (s.setLoad x).supervisor = s.supervisor ∧
    (s.setLoad x).rate = s.rate ∧ (s.setLoad x).part = s.part ∧ (s.setLoad x).restart = s.restart ∧
    (s.setLoad x).report = s.report ∧ (s.setLoad x).imageBuffer = s.imageBuffer ∧
    (s.setLoad x).saveJob = s.saveJob ∧ (∀ k, (s.setLoad x).slot k = s.slot k) ∧
    (∀ k, (s.setLoad x).entry k = s.entry k) ∧ (∀ k, (s.setLoad x).rightsOf k = s.rightsOf k) ∧
    (∀ k, (s.setLoad x).record k = s.record k) ∧
    (∀ k, (s.setLoad x).waitingDone k = s.waitingDone k) ∧
    (∀ k, (s.setLoad x).busQueue k = s.busQueue k) ∧ (∀ k, (s.setLoad x).engine k = s.engine k) ∧
    (∀ k, (s.setLoad x).session k = s.session k) ∧ (∀ k, (s.setLoad x).notice k = s.notice k) ∧
    (∀ k, (s.setLoad x).link k = s.link k) :=
  ⟨rfl, rfl, rfl, rfl, rfl, rfl, rfl, rfl, rfl, rfl, fun _ => rfl, fun _ => rfl, fun _ => rfl,
    fun _ => rfl, fun _ => rfl, fun _ => rfl, fun _ => rfl, fun _ => rfl, fun _ => rfl,
    fun _ => rfl⟩

@[simp] theorem State.load_setLoad (x : Option LoadJob) : (s.setLoad x).load = x := rfl

/-! ### setReport -/

@[simp] theorem State.setReport_frame (x : Report) :
    (s.setReport x).pending = s.pending ∧ (s.setReport x).now = s.now ∧
    (s.setReport x).freeCount = s.freeCount ∧ (s.setReport x).supervisor = s.supervisor ∧
    (s.setReport x).rate = s.rate ∧ (s.setReport x).part = s.part ∧
    (s.setReport x).restart = s.restart ∧ (s.setReport x).load = s.load ∧
    (s.setReport x).imageBuffer = s.imageBuffer ∧ (s.setReport x).saveJob = s.saveJob ∧
    (∀ k, (s.setReport x).slot k = s.slot k) ∧ (∀ k, (s.setReport x).entry k = s.entry k) ∧
    (∀ k, (s.setReport x).rightsOf k = s.rightsOf k) ∧
    (∀ k, (s.setReport x).record k = s.record k) ∧
    (∀ k, (s.setReport x).waitingDone k = s.waitingDone k) ∧
    (∀ k, (s.setReport x).busQueue k = s.busQueue k) ∧
    (∀ k, (s.setReport x).engine k = s.engine k) ∧ (∀ k, (s.setReport x).session k = s.session k) ∧
    (∀ k, (s.setReport x).notice k = s.notice k) ∧ (∀ k, (s.setReport x).link k = s.link k) :=
  ⟨rfl, rfl, rfl, rfl, rfl, rfl, rfl, rfl, rfl, rfl, fun _ => rfl, fun _ => rfl, fun _ => rfl,
    fun _ => rfl, fun _ => rfl, fun _ => rfl, fun _ => rfl, fun _ => rfl, fun _ => rfl,
    fun _ => rfl⟩

@[simp] theorem State.report_setReport (x : Report) : (s.setReport x).report = x := rfl

/-! ### setImage -/

@[simp] theorem State.setImage_frame (x : List Byte) :
    (s.setImage x).pending = s.pending ∧ (s.setImage x).now = s.now ∧
    (s.setImage x).freeCount = s.freeCount ∧ (s.setImage x).supervisor = s.supervisor ∧
    (s.setImage x).rate = s.rate ∧ (s.setImage x).part = s.part ∧
    (s.setImage x).restart = s.restart ∧ (s.setImage x).load = s.load ∧
    (s.setImage x).report = s.report ∧ (s.setImage x).saveJob = s.saveJob ∧
    (∀ k, (s.setImage x).slot k = s.slot k) ∧ (∀ k, (s.setImage x).entry k = s.entry k) ∧
    (∀ k, (s.setImage x).rightsOf k = s.rightsOf k) ∧ (∀ k, (s.setImage x).record k = s.record k) ∧
    (∀ k, (s.setImage x).waitingDone k = s.waitingDone k) ∧
    (∀ k, (s.setImage x).busQueue k = s.busQueue k) ∧ (∀ k, (s.setImage x).engine k = s.engine k) ∧
    (∀ k, (s.setImage x).session k = s.session k) ∧ (∀ k, (s.setImage x).notice k = s.notice k) ∧
    (∀ k, (s.setImage x).link k = s.link k) :=
  ⟨rfl, rfl, rfl, rfl, rfl, rfl, rfl, rfl, rfl, rfl, fun _ => rfl, fun _ => rfl, fun _ => rfl,
    fun _ => rfl, fun _ => rfl, fun _ => rfl, fun _ => rfl, fun _ => rfl, fun _ => rfl,
    fun _ => rfl⟩

@[simp] theorem State.imageBuffer_setImage (x : List Byte) : (s.setImage x).imageBuffer = x := rfl

/-! ### setSaveJob -/

@[simp] theorem State.setSaveJob_frame (x : Option PoolIx) :
    (s.setSaveJob x).pending = s.pending ∧ (s.setSaveJob x).now = s.now ∧
    (s.setSaveJob x).freeCount = s.freeCount ∧ (s.setSaveJob x).supervisor = s.supervisor ∧
    (s.setSaveJob x).rate = s.rate ∧ (s.setSaveJob x).part = s.part ∧
    (s.setSaveJob x).restart = s.restart ∧ (s.setSaveJob x).load = s.load ∧
    (s.setSaveJob x).report = s.report ∧ (s.setSaveJob x).imageBuffer = s.imageBuffer ∧
    (∀ k, (s.setSaveJob x).slot k = s.slot k) ∧ (∀ k, (s.setSaveJob x).entry k = s.entry k) ∧
    (∀ k, (s.setSaveJob x).rightsOf k = s.rightsOf k) ∧
    (∀ k, (s.setSaveJob x).record k = s.record k) ∧
    (∀ k, (s.setSaveJob x).waitingDone k = s.waitingDone k) ∧
    (∀ k, (s.setSaveJob x).busQueue k = s.busQueue k) ∧
    (∀ k, (s.setSaveJob x).engine k = s.engine k) ∧
    (∀ k, (s.setSaveJob x).session k = s.session k) ∧
    (∀ k, (s.setSaveJob x).notice k = s.notice k) ∧ (∀ k, (s.setSaveJob x).link k = s.link k) :=
  ⟨rfl, rfl, rfl, rfl, rfl, rfl, rfl, rfl, rfl, rfl, fun _ => rfl, fun _ => rfl, fun _ => rfl,
    fun _ => rfl, fun _ => rfl, fun _ => rfl, fun _ => rfl, fun _ => rfl, fun _ => rfl,
    fun _ => rfl⟩

@[simp] theorem State.saveJob_setSaveJob (x : Option PoolIx) : (s.setSaveJob x).saveJob = x := rfl

/-! ### setFreeCount -/

@[simp] theorem State.setFreeCount_frame (x : Nat) :
    (s.setFreeCount x).pending = s.pending ∧ (s.setFreeCount x).now = s.now ∧
    (s.setFreeCount x).supervisor = s.supervisor ∧ (s.setFreeCount x).rate = s.rate ∧
    (s.setFreeCount x).part = s.part ∧ (s.setFreeCount x).restart = s.restart ∧
    (s.setFreeCount x).load = s.load ∧ (s.setFreeCount x).report = s.report ∧
    (s.setFreeCount x).imageBuffer = s.imageBuffer ∧ (s.setFreeCount x).saveJob = s.saveJob ∧
    (∀ k, (s.setFreeCount x).slot k = s.slot k) ∧ (∀ k, (s.setFreeCount x).entry k = s.entry k) ∧
    (∀ k, (s.setFreeCount x).rightsOf k = s.rightsOf k) ∧
    (∀ k, (s.setFreeCount x).record k = s.record k) ∧
    (∀ k, (s.setFreeCount x).waitingDone k = s.waitingDone k) ∧
    (∀ k, (s.setFreeCount x).busQueue k = s.busQueue k) ∧
    (∀ k, (s.setFreeCount x).engine k = s.engine k) ∧
    (∀ k, (s.setFreeCount x).session k = s.session k) ∧
    (∀ k, (s.setFreeCount x).notice k = s.notice k) ∧ (∀ k, (s.setFreeCount x).link k = s.link k) :=
  ⟨rfl, rfl, rfl, rfl, rfl, rfl, rfl, rfl, rfl, rfl, fun _ => rfl, fun _ => rfl, fun _ => rfl,
    fun _ => rfl, fun _ => rfl, fun _ => rfl, fun _ => rfl, fun _ => rfl, fun _ => rfl,
    fun _ => rfl⟩

@[simp] theorem State.freeCount_setFreeCount (x : Nat) : (s.setFreeCount x).freeCount = x := rfl

/-! ### advanceTo -/

@[simp] theorem State.advanceTo_frame (t : Nat) :
    (s.advanceTo t).pending = s.pending ∧ (s.advanceTo t).freeCount = s.freeCount ∧
    (s.advanceTo t).supervisor = s.supervisor ∧ (s.advanceTo t).rate = s.rate ∧
    (s.advanceTo t).part = s.part ∧ (s.advanceTo t).restart = s.restart ∧
    (s.advanceTo t).load = s.load ∧ (s.advanceTo t).report = s.report ∧
    (s.advanceTo t).imageBuffer = s.imageBuffer ∧ (s.advanceTo t).saveJob = s.saveJob ∧
    (∀ k, (s.advanceTo t).slot k = s.slot k) ∧ (∀ k, (s.advanceTo t).entry k = s.entry k) ∧
    (∀ k, (s.advanceTo t).rightsOf k = s.rightsOf k) ∧
    (∀ k, (s.advanceTo t).record k = s.record k) ∧
    (∀ k, (s.advanceTo t).waitingDone k = s.waitingDone k) ∧
    (∀ k, (s.advanceTo t).busQueue k = s.busQueue k) ∧
    (∀ k, (s.advanceTo t).engine k = s.engine k) ∧ (∀ k, (s.advanceTo t).session k = s.session k) ∧
    (∀ k, (s.advanceTo t).notice k = s.notice k) ∧ (∀ k, (s.advanceTo t).link k = s.link k) :=
  ⟨rfl, rfl, rfl, rfl, rfl, rfl, rfl, rfl, rfl, rfl, fun _ => rfl, fun _ => rfl, fun _ => rfl,
    fun _ => rfl, fun _ => rfl, fun _ => rfl, fun _ => rfl, fun _ => rfl, fun _ => rfl,
    fun _ => rfl⟩

@[simp] theorem State.now_advanceTo (t : Nat) : (s.advanceTo t).now = max s.now t := rfl

/-! ### The updates built from these -/

theorem State.setBody_eq (i : SlotIx) (x : SlotBody) :
    s.setBody i x = s.setSlot i ⟨(s.slot i).generation, x⟩ := rfl

theorem State.freeSlot_eq (i : SlotIx) : s.freeSlot i = s.setSlot i ⟨(s.slot i).generation, .free⟩ :=
  rfl

theorem State.setWaitQueue_eq (t : EntryIx) (q : List SlotIx) :
    s.setWaitQueue t q = s.setEntry t ⟨(s.entry t).body, q⟩ := rfl

end Sys2Proof.Machine
end

