-- ==== Sys2Proof/Laws/Effects.lean ====
section
/-! SUPPORT. What an event can do to the controller, said once: the effects an event is made of, each
with the facts that hold when it happens. Every meaning but COLD_START is a chain of them
(Laws/Chains*.lean), so a law that every effect keeps is a law that every such command keeps. -/

namespace Sys2Proof.Machine

/-- No record has the session of this link as its destination, and no completion waits for it. -/
def State.Clean (s : State) (l : Link) : Prop :=
  (∀ p r, s.record p = some r → r.destination ≠ some l) ∧ s.waitingDone l = []

/-- What an engine and its bus queue owe each other (`State.EngineLaw` for one bus). -/
def EngineLawful (e : Engine) (q : List PoolIx) : Prop :=
  e.lawful = true ∧ q.length ≤ 8 ∧ (e.state = .fault → q = [])

/-- The effects that an event is made of, but for the opening of a lease. -/
inductive Effect (s : State) : State → Prop
  /-- the pool, the waiting completions and what no law speaks of -/
  | pool (pool : Vector (Option Record) 16) (done : Vector (List PoolIx) 4) (job : Option PoolIx)
      (count now : Nat) (report : Report) (image : List Byte) (hnow : s.now ≤ now)
      (hclean : ∀ l, (s.session l).isClosed = true → s.Clean l →
        State.Clean { s with pool := pool, doneWaiting := done } l) :
      Effect s { s with
        pool := pool, doneWaiting := done, saveJob := job, freeCount := count, now := now,
        report := report, imageBuffer := image }
  | link (l : Link) (u : LinkUnit)
      (h : (s.link l).Lawful (s.session l) → u.Lawful (s.session l)) : Effect s (s.setLink l u)
  | engine (b : BusIx) (e : Engine) (q : List PoolIx)
      (h : EngineLawful (s.engine b) (s.busQueue b) → EngineLawful e q) :
      Effect s ((s.setEngine b e).setBusQueue b q)
  -- notices and sessions
  | offered (l : Link) (n : Notice) : Effect s (s.offerNotice l n)
  | collected (l : Link) (n : Nat) (h : (s.session l).isOpen = true) :
      Effect s ((s.setNotice l { s.notice l with
        queue := (s.notice l).queue.drop n, overrun := false }).refreshAttn l)
  | closed (l : Link) (hown : ∀ i, (s.slot i).body.owner? ≠ some l) (hclean : s.Clean l) :
      Effect s ((s.clearNotices l).putSession l .closed)
  | opened (l : Link) (key : Nat) (h : (s.link l).reserved = true) :
      Effect s ((s.clearNotices l).putSession l (.opened key))
  | resumed (l : Link) (key d : Nat) (hs : s.session l = .suspended key d)
      (h : (s.link l).reserved = true) : Effect s (s.putSession l (.opened key))
  | suspended (l : Link) (key d : Nat) (h : s.session l = .opened key) :
      Effect s (s.putSession l (.suspended key d))
  -- slots and wait queues
  | vacated (i : SlotIx) (t : EntryIx) (h : (s.slot i).body.target? = some t)
      (hs : (s.slot i).body.stateName ≠ .ending) : Effect s (s.vacate i t)
  | ended (i : SlotIx) (h : HeldSlot) (owner : Option Link) (cause : EndCause)
      (hb : (s.slot i).body = .held h) (ho : owner = some h.owner ∨ owner = none) :
      Effect s ((s.setBody i (.ending ⟨owner, h.target, h.mode, h.inFlight, cause⟩)).leaveQueue
        h.target i)
  | detached (i : SlotIx) (e : EndingSlot) (hb : (s.slot i).body = .ending e) :
      Effect s (s.setBody i (.ending { e with owner := none }))
  | freed (i : SlotIx) (e : EndingSlot) (hb : (s.slot i).body = .ending e) : Effect s (s.freeSlot i)
  | kept (i : SlotIx) (h h' : HeldSlot) (hb : (s.slot i).body = .held h) (ho : h'.owner = h.owner)
      (ht : h'.target = h.target) (hm : h'.mode = h.mode) (hu : h'.upgrade = h.upgrade) :
      Effect s (s.setBody i (.held h'))
  | downgraded (i : SlotIx) (h : HeldSlot) (hb : (s.slot i).body = .held h) :
      Effect s (s.setBody i (.held { h with mode := .shared }))
  | upgraded (i : SlotIx) (h : HeldSlot) (hb : (s.slot i).body = .held h)
      (ho : s.onlyHolder h.target i = true) : Effect s (s.setBody i (.held { h with mode := .exclusive }))
  | upgradeAsked (i : SlotIx) (h : HeldSlot) (d : Nat) (hb : (s.slot i).body = .held h)
      (hu : h.upgrade = none) (ho : s.otherUpgrade h.target i = false) :
      Effect s ((s.setBody i (.held { h with upgrade := some d })).setWaitQueue h.target
        (i :: (s.entry h.target).waitQueue))
  | upgradeLeft (i : SlotIx) (h : HeldSlot) (hb : (s.slot i).body = .held h) :
      Effect s ((s.setBody i (.held { h with upgrade := none })).leaveQueue h.target i)
  | grantedWaiting (t : EntryIx) (i : SlotIx) (rest : List SlotIx) (w : WaitingSlot)
      (hq : (s.entry t).waitQueue = i :: rest) (hb : (s.slot i).body = .waiting w)
      (hc : s.compatible w.target w.mode = true) :
      Effect s ((s.setWaitQueue t rest).setBody i
        (.held (grantedSlot w.owner w.target w.mode w.requestedTerm s.now)))
  | grantedUpgrade (t : EntryIx) (i : SlotIx) (rest : List SlotIx) (h : HeldSlot)
      (hq : (s.entry t).waitQueue = i :: rest) (hb : (s.slot i).body = .held h)
      (hu : h.upgrade.isSome = true) (ho : s.onlyHolder h.target i = true) :
      Effect s ((s.setWaitQueue t rest).setBody i
        (.held { h with mode := .exclusive, upgrade := none }))
  -- the catalogue
  | gone (t : EntryIx) (f : TargetFields) (hb : (s.entry t).body = .retiring f)
      (hu : s.targetInUse t = false) : Effect s (s.setEntry t { s.entry t with body := .absent })
  | retired (t : EntryIx) (f : TargetFields) (hb : (s.entry t).body = .present f)
      (hs : ∀ i, (s.slot i).body.target? = some t → (s.slot i).body.stateName = .ending) :
      Effect s (s.retire t f)
  | written (t : EntryIx) (f : TargetFields) (hv : f.valid = true) (hc : s.clashes t f = false)
      (hu : (s.entry t).body = .absent ∨ s.targetInUse t = false ∨ s.load.isSome = true) :
      Effect s (s.makePresent t f)
  | rights (l : Link) (r : Rights) (hv : r.valid = true) : Effect s (s.setRights l r)
  -- start-up
  | loading (j j' : LoadJob) (h : s.load = some j) : Effect s (s.setLoad (some j'))
  | loaded (j : LoadJob) (h : s.load = some j) : Effect s ((s.setLoad none).setPart .ready)
  | restarting (job : RestartJob) (h : s.part = .ready) :
      Effect s ((s.setPart .starting).setRestart (some job))
  | tearing (job job' : RestartJob) (h : s.restart = some job) : Effect s (s.setRestart (some job'))
  | drainedKeep (job : RestartJob) (h : s.restart = some job) :
      Effect s ((s.setRestart none).setPart .ready)
  | drainedReload (job : RestartJob) (h : s.restart = some job) (hf : s.allFree = true) :
      Effect s (((s.setRestart none).emptyCatalogue).setLoad (some firstLoad))

/-- A chain of effects. -/
abbrev Effects : State → State → Prop := Relation.ReflTransGen Effect

/-- What OPEN adds: a FREE slot becomes HELD or WAITING (R9, R10). -/
inductive Opening (s : State) : State → Prop
  | held (i : SlotIx) (l : Link) (t : EntryIx) (m : Mode) (term now : Nat) (f : TargetFields)
      (hf : (s.slot i).body = .free) (hp : s.part = .ready) (ht : (s.entry t).body = .present f)
      (hl : (s.session l).isOpen = true) (ho : s.ownsOn l t = false)
      (hg : s.grantableAtOnce t m = true) :
      Opening s (s.leaveFree i (.held (grantedSlot l t m term now)))
  | waiting (i : SlotIx) (w : WaitingSlot) (f : TargetFields)
      (hf : (s.slot i).body = .free) (hp : s.part = .ready)
      (ht : (s.entry w.target).body = .present f) (hl : (s.session w.owner).isOpen = true)
      (ho : s.ownsOn w.owner w.target = false) (hq : s.waitingCount w.target < f.qlim) :
      Opening s ((s.leaveFree i (.waiting w)).setWaitQueue w.target
        ((s.entry w.target).waitQueue ++ [i]))

/-- One move of an event. -/
inductive Move (s t : State) : Prop
  | effect (h : Effect s t)
  | opening (h : Opening s t)

/-- A chain of moves. -/
abbrev Moves : State → State → Prop := Relation.ReflTransGen Move

theorem Effects.one {s t : State} (h : Effect s t) : Effects s t := .single h

theorem Effects.moves {s t : State} (h : Effects s t) : Moves s t :=
  h.lift id fun _ _ => .effect

/-- A property that every effect keeps is kept by a chain of them. -/
theorem Effects.keep {P : State → Prop} (hP : ∀ s t, Effect s t → P s → P t) {s t : State}
    (h : Effects s t) (hs : P s) : P t := by
  induction h with
  | refl => exact hs
  | tail _ h ih => exact hP _ _ h ih

/-- A property that every move keeps is kept by a chain of them. -/
theorem Moves.keep {P : State → Prop} (hP : ∀ s t, Move s t → P s → P t) {s t : State}
    (h : Moves s t) (hs : P s) : P t := by
  induction h with
  | refl => exact hs
  | tail _ h ih => exact hP _ _ h ih

end Sys2Proof.Machine
end

