-- ==== Sys2Proof/Laws/Chains.lean ====
section
/-! SUPPORT. The shared operations as chains of effects: the pool, the notice unit, the outbound queue,
the arbiter and the transaction unit. -/

namespace Sys2Proof.Machine

open Relation (ReflTransGen)

variable (s : State)

/-! ### The pool and what no law speaks of -/

theorem effects_advanceTo (t : Nat) : Effects s (s.advanceTo t) :=
  .one (.pool s.pool s.doneWaiting s.saveJob s.freeCount (max s.now t) s.report s.imageBuffer
    (Nat.le_max_left ..) fun _ _ h => h)

theorem effects_setReport (x : Report) : Effects s (s.setReport x) :=
  .one (.pool s.pool s.doneWaiting s.saveJob s.freeCount s.now x s.imageBuffer le_rfl fun _ _ h => h)

theorem effects_setImage (x : List Byte) : Effects s (s.setImage x) :=
  .one (.pool s.pool s.doneWaiting s.saveJob s.freeCount s.now s.report x le_rfl fun _ _ h => h)

theorem effects_setSaveJob (x : Option PoolIx) : Effects s (s.setSaveJob x) :=
  .one (.pool s.pool s.doneWaiting x s.freeCount s.now s.report s.imageBuffer le_rfl fun _ _ h => h)

theorem effects_setFreeCount (x : Nat) : Effects s (s.setFreeCount x) :=
  .one (.pool s.pool s.doneWaiting s.saveJob x s.now s.report s.imageBuffer le_rfl fun _ _ h => h)

/-- A record is written whose destination, if its session is CLOSED, the record there had already. -/
theorem effects_setRecord (p : PoolIx) (x : Option Record)
    (h : ∀ r l, x = some r → r.destination = some l → (s.session l).isClosed = true →
      ∃ r', s.record p = some r' ∧ r'.destination = some l) : Effects s (s.setRecord p x) := by
  refine .one (.pool (s.pool.set p x) s.doneWaiting s.saveJob s.freeCount s.now s.report
    s.imageBuffer le_rfl fun l hl hc => ⟨fun q r hr hd => ?_, hc.2⟩)
  have hq : (s.setRecord p x).record q = some r := hr
  rw [State.record_setRecord] at hq
  split at hq
  · obtain ⟨r', hr', hd'⟩ := h r l hq hd hl
    exact hc.1 p r' hr' hd'
  · exact hc.1 q r hq hd

theorem effects_clearRecord (p : PoolIx) : Effects s (s.setRecord p none) :=
  effects_setRecord s p none fun _ _ h => by cases h

/-- A record is written over one with the same destination. -/
theorem effects_updateRecord {p : PoolIx} {r r' : Record} (hr : s.record p = some r)
    (hd : r'.destination = r.destination ∨ r'.destination = none) :
    Effects s (s.setRecord p (some r')) :=
  effects_setRecord s p _ fun x l hx hl _ => by
    cases hx
    rcases hd with hd | hd
    · exact ⟨r, hr, hd ▸ hl⟩
    · rw [hd] at hl; cases hl

theorem effects_setWaitingDone (l : Link) (q : List PoolIx)
    (h : (s.session l).isClosed = true → s.waitingDone l = [] → q = []) :
    Effects s (s.setWaitingDone l q) := by
  refine .one (.pool s.pool (s.doneWaiting.set l q) s.saveJob s.freeCount s.now s.report
    s.imageBuffer le_rfl fun k hk hc => ⟨hc.1, ?_⟩)
  change (s.setWaitingDone l q).waitingDone k = []
  rw [State.waitingDone_setWaitingDone]
  split
  · subst_vars; exact h hk hc.2
  · exact hc.2

theorem effects_freeRecord (p : PoolIx) : Effects s (s.freeRecord p) :=
  (effects_clearRecord s p).trans (effects_setSaveJob _ _)

/-! ### Engines, links and notices -/

theorem effects_setBusQueue (b : BusIx) (q : List PoolIx)
    (h : EngineLawful (s.engine b) (s.busQueue b) → EngineLawful (s.engine b) q) :
    Effects s (s.setBusQueue b q) := by
  have := Effect.engine b (s.engine b) q h
  rw [State.setEngine_engine] at this
  exact .one this

theorem effects_setEngine (b : BusIx) (e : Engine)
    (h : EngineLawful (s.engine b) (s.busQueue b) → EngineLawful e (s.busQueue b)) :
    Effects s (s.setEngine b e) := by
  have := Effect.engine b e (s.busQueue b) h
  rw [show s.busQueue b = (s.setEngine b e).busQueue b from rfl, State.setBusQueue_busQueue] at this
  exact .one this

theorem effects_leaveBusQueue (b : BusIx) (p : PoolIx) : Effects s (s.leaveBusQueue b p) :=
  effects_setBusQueue s b _ fun ⟨h, h8, hf⟩ =>
    ⟨h, (List.length_filter_le ..).trans h8, fun h => by rw [hf h]; rfl⟩

theorem effects_setLink (l : Link) (u : LinkUnit)
    (h : (s.link l).Lawful (s.session l) → u.Lawful (s.session l)) : Effects s (s.setLink l u) :=
  .one (.link l u h)

theorem effects_offerNotice (l : Link) (n : Notice) : Effects s (s.offerNotice l n) :=
  .one (.offered l n)

/-! ### The outbound queue -/

theorem lawful_push {u : LinkUnit} {ss : Session} (hp : u.placeAvailable = true) (hup : u.line = .up)
    (r : Response) (hu : u.Lawful ss) :
    LinkUnit.Lawful { u with outbound := u.outbound ++ [r] } ss := by
  obtain ⟨h1, h2, h3, h4, h5, h6, h7, h8, h9⟩ := hu
  have hp : u.placesTaken < 6 := of_decide_eq_true hp
  refine ⟨h1, h2, h3, h4, ⟨?_, h5.2⟩, by simp, h7, h8, fun h => by simp [hup] at h⟩
  simp only [LinkUnit.placesTaken, List.length_append, List.length_singleton] at hp ⊢
  omega

/-- The line of a lawful unit with an OPEN session is UP. -/
theorem lawful_up {u : LinkUnit} {ss : Session} (hu : u.Lawful ss) (hs : ss.isOpen = true) :
    u.line = .up := by
  obtain ⟨-, -, -, -, -, -, -, -, h⟩ := hu
  cases hl : u.line
  · simp [hs, hl] at h
  · rfl

theorem effects_pushOutbound (l : Link) (r : Response) (hp : (s.link l).placeAvailable = true)
    (hs : (s.session l).isOpen = true) : Effects s (s.pushOutbound l r) :=
  effects_setLink s l _ fun h => lawful_push hp (lawful_up h hs) r h

/-- A unit is changed, and a place that is then available goes to a claimant (R155). -/
theorem effects_givePlace (l : Link) (u : LinkUnit)
    (h : (s.link l).Lawful (s.session l) → u.Lawful (s.session l) ∧ u.line = .up) :
    Effects s ((s.setLink l u).givePlace l) := by
  have h0 : Effects s (s.setLink l u) := effects_setLink s l u fun hl => (h hl).1
  unfold State.givePlace
  simp only [State.link_setLink_self]
  split
  case isFalse => exact h0
  case isTrue hp =>
    split
    · rename_i p rest hw
      split
      · rename_i r _
        refine .trans ?_ (effects_freeRecord _ p)
        refine .trans ?_ (effects_setWaitingDone _ l rest fun _ h => by
          have h : s.waitingDone l = [] := h
          have hw : s.waitingDone l = p :: rest := hw
          rw [h] at hw; cases hw)
        have := effects_setLink s l { u with outbound := u.outbound ++ [completionFrame r] }
          fun hl => lawful_push hp (h hl).2 _ (h hl).1
        simpa [State.pushOutbound] using this
      · exact h0.trans (effects_setWaitingDone _ l rest fun _ h => by
          have h : s.waitingDone l = [] := h
          have hw : s.waitingDone l = p :: rest := hw
          rw [h] at hw; cases hw)
    · split
      · rename_i count reason _
        have := effects_setLink s l { u with
            outbound := u.outbound ++ [rejectFrame count reason], pendingReject := none } fun hl => by
          have := lawful_push hp (h hl).2 (rejectFrame count reason) (h hl).1
          obtain ⟨h1, h2, h3, h4, h5, h6, h7, h8, h9⟩ := this
          exact ⟨h1, h2, h3, h4, h5, h6, rfl, h8, fun hd => by
            have := (h hl).2; rw [show u.line = .down from hd] at this; cases this⟩
        simpa [State.pushOutbound] using this
      · exact h0

/-- A unit is changed, and a place that is then available goes to the first claimant that waits, the
intake among them (R155, R158). -/
theorem effects_placeFreed (l : Link) (u : LinkUnit)
    (h : (s.link l).Lawful (s.session l) → u.Lawful (s.session l) ∧ u.line = .up) :
    Effects s ((s.setLink l u).placeFreed l) := by
  unfold State.placeFreed
  split
  · rename_i hf
    rw [State.link_setLink_self, State.setLink_setLink]
    simp only [State.intakeFirst, LinkUnit.intakeWaits, State.link_setLink_self, Bool.and_eq_true] at hf
    refine effects_setLink s l _ fun hl => ?_
    obtain ⟨⟨h1, h2, h3, h4, h5, h6, h7, h8, -⟩, hup⟩ := h hl
    have hp : u.placesTaken < 6 := of_decide_eq_true hf.1.1.1
    refine ⟨h1, h2, h3, h4, ⟨?_, fun _ hq => ?_⟩, h6, h7, h8, fun hd => ?_⟩
    · simp only [LinkUnit.placesTaken] at hp ⊢
      simp only [if_true]; omega
    · have := hf.2.1
      rw [show u.requestQueue = [] from hq] at this; cases this
    · rw [show u.line = .down from hd] at hup; cases hup
  · exact effects_givePlace s l u h

/-- R157: an answer goes into the place kept for it. -/
theorem effects_answer (l : Link) (tag : Byte) (st : Status) (body : List Byte)
    (hr : (s.link l).reserved = true) : Effects s (s.answer l tag st body) :=
  effects_setLink s l _ fun ⟨h1, h2, h3, h4, h5, h6, h7, h8, h9⟩ => by
    refine ⟨h1, h2, h3, h4, ⟨?_, h5.2⟩, by simp, h7, h8, fun hd => ?_⟩
    · have := h5.1
      simp only [LinkUnit.placesTaken, hr, if_true] at this
      simpa [LinkUnit.placesTaken] using this
    · rw [(h9 hd).2.2.2.2.1] at hr; cases hr

/-- R157: the place found for a request that is answered later, and a claimant that may wait for it. -/
theorem effects_answerLater (l : Link) (hr : (s.link l).reserved = true) :
    Effects s (s.answerLater l) :=
  effects_givePlace s l _ fun ⟨h1, h2, h3, h4, h5, h6, h7, h8, h9⟩ => by
    have hup : (s.link l).line = .up := by
      cases hd : (s.link l).line
      · rw [(h9 hd).2.2.2.2.1] at hr; cases hr
      · rfl
    refine ⟨⟨h1, h2, h3, h4, ⟨?_, h5.2⟩, h6, h7, h8, fun hd => ?_⟩, hup⟩
    · have := h5.1
      simp only [LinkUnit.placesTaken, hr, if_true] at this
      simp only [LinkUnit.placesTaken]
      simp; omega
    · rw [show (s.link l).line = .down from hd] at hup; cases hup

theorem effects_answerAmong (before : Nat) (l : Link) (tag : Byte) (st : Status) (body : List Byte)
    (hr : (s.link l).reserved = true) : Effects s (s.answerAmong before l tag st body) := by
  unfold State.answerAmong
  split
  · exact effects_answer s l tag st body hr
  · refine .trans ?_ (effects_setFreeCount _ _)
    refine effects_setLink s l _ fun ⟨h1, h2, h3, h4, h5, h6, h7, h8, h9⟩ => ?_
    refine ⟨h1, h2, h3, h4, ⟨?_, h5.2⟩, by simp, h7, h8, fun hd => ?_⟩
    · have h5 := h5.1
      simp only [LinkUnit.placesTaken, hr, if_true] at h5
      simp only [LinkUnit.placesTaken, List.length_append, List.length_take, List.length_drop, List.length_singleton]
      simp
      omega
    · rw [(h9 hd).2.2.2.2.1] at hr; cases hr

/-! ### The notice unit and the lapse warning -/

theorem effects_warnIfDue (i : SlotIx) : Effects s (s.warnIfDue i) := by
  unfold State.warnIfDue
  split
  · rename_i h hb
    split
    · have := Effect.kept i h { h with lapseWarned := true } hb rfl rfl rfl rfl
      exact .trans (.single this) (effects_offerNotice _ _ _)
    · exact .refl
  · exact .refl

end Sys2Proof.Machine
end

