-- ==== Sys2Proof/Laws/Frames.lean ====
section
/-! SUPPORT. The frames of the shared operations: every field that an operation leaves. -/

namespace Sys2Proof.Machine

variable (s : State)

@[simp] theorem State.refreshAttn_frame (l : Link) :
    (s.refreshAttn l).pending = s.pending ∧ (s.refreshAttn l).now = s.now ∧
    (s.refreshAttn l).freeCount = s.freeCount ∧ (s.refreshAttn l).supervisor = s.supervisor ∧
    (s.refreshAttn l).rate = s.rate ∧ (s.refreshAttn l).part = s.part ∧
    (s.refreshAttn l).restart = s.restart ∧ (s.refreshAttn l).load = s.load ∧
    (s.refreshAttn l).report = s.report ∧ (s.refreshAttn l).imageBuffer = s.imageBuffer ∧
    (s.refreshAttn l).saveJob = s.saveJob ∧ (∀ k, (s.refreshAttn l).slot k = s.slot k) ∧
    (∀ k, (s.refreshAttn l).entry k = s.entry k) ∧
    (∀ k, (s.refreshAttn l).rightsOf k = s.rightsOf k) ∧
    (∀ k, (s.refreshAttn l).record k = s.record k) ∧
    (∀ k, (s.refreshAttn l).waitingDone k = s.waitingDone k) ∧
    (∀ k, (s.refreshAttn l).busQueue k = s.busQueue k) ∧
    (∀ k, (s.refreshAttn l).engine k = s.engine k) ∧
    (∀ k, (s.refreshAttn l).session k = s.session k) ∧
    (∀ k, (s.refreshAttn l).link k = s.link k) := by
  simp [State.refreshAttn]

@[simp] theorem State.offerNotice_frame (l : Link) (n : Notice) :
    (s.offerNotice l n).pending = s.pending ∧ (s.offerNotice l n).now = s.now ∧
    (s.offerNotice l n).freeCount = s.freeCount ∧ (s.offerNotice l n).supervisor = s.supervisor ∧
    (s.offerNotice l n).rate = s.rate ∧ (s.offerNotice l n).part = s.part ∧
    (s.offerNotice l n).restart = s.restart ∧ (s.offerNotice l n).load = s.load ∧
    (s.offerNotice l n).report = s.report ∧ (s.offerNotice l n).imageBuffer = s.imageBuffer ∧
    (s.offerNotice l n).saveJob = s.saveJob ∧ (∀ k, (s.offerNotice l n).slot k = s.slot k) ∧
    (∀ k, (s.offerNotice l n).entry k = s.entry k) ∧
    (∀ k, (s.offerNotice l n).rightsOf k = s.rightsOf k) ∧
    (∀ k, (s.offerNotice l n).record k = s.record k) ∧
    (∀ k, (s.offerNotice l n).waitingDone k = s.waitingDone k) ∧
    (∀ k, (s.offerNotice l n).busQueue k = s.busQueue k) ∧
    (∀ k, (s.offerNotice l n).engine k = s.engine k) ∧
    (∀ k, (s.offerNotice l n).session k = s.session k) ∧
    (∀ k, (s.offerNotice l n).link k = s.link k) := by
  unfold State.offerNotice
  split <;> simp

@[simp] theorem State.clearNotices_frame (l : Link) :
    (s.clearNotices l).pending = s.pending ∧ (s.clearNotices l).now = s.now ∧
    (s.clearNotices l).freeCount = s.freeCount ∧ (s.clearNotices l).supervisor = s.supervisor ∧
    (s.clearNotices l).rate = s.rate ∧ (s.clearNotices l).part = s.part ∧
    (s.clearNotices l).restart = s.restart ∧ (s.clearNotices l).load = s.load ∧
    (s.clearNotices l).report = s.report ∧ (s.clearNotices l).imageBuffer = s.imageBuffer ∧
    (s.clearNotices l).saveJob = s.saveJob ∧ (∀ k, (s.clearNotices l).slot k = s.slot k) ∧
    (∀ k, (s.clearNotices l).entry k = s.entry k) ∧
    (∀ k, (s.clearNotices l).rightsOf k = s.rightsOf k) ∧
    (∀ k, (s.clearNotices l).record k = s.record k) ∧
    (∀ k, (s.clearNotices l).waitingDone k = s.waitingDone k) ∧
    (∀ k, (s.clearNotices l).busQueue k = s.busQueue k) ∧
    (∀ k, (s.clearNotices l).engine k = s.engine k) ∧
    (∀ k, (s.clearNotices l).session k = s.session k) ∧
    (∀ k, (s.clearNotices l).link k = s.link k) := by
  simp [State.clearNotices]

@[simp] theorem State.putSession_frame (l : Link) (x : Session) :
    (s.putSession l x).pending = s.pending ∧ (s.putSession l x).now = s.now ∧
    (s.putSession l x).freeCount = s.freeCount ∧ (s.putSession l x).supervisor = s.supervisor ∧
    (s.putSession l x).rate = s.rate ∧ (s.putSession l x).part = s.part ∧
    (s.putSession l x).restart = s.restart ∧ (s.putSession l x).load = s.load ∧
    (s.putSession l x).report = s.report ∧ (s.putSession l x).imageBuffer = s.imageBuffer ∧
    (s.putSession l x).saveJob = s.saveJob ∧ (∀ k, (s.putSession l x).slot k = s.slot k) ∧
    (∀ k, (s.putSession l x).entry k = s.entry k) ∧
    (∀ k, (s.putSession l x).rightsOf k = s.rightsOf k) ∧
    (∀ k, (s.putSession l x).record k = s.record k) ∧
    (∀ k, (s.putSession l x).waitingDone k = s.waitingDone k) ∧
    (∀ k, (s.putSession l x).busQueue k = s.busQueue k) ∧
    (∀ k, (s.putSession l x).engine k = s.engine k) ∧
    (∀ k, (s.putSession l x).link k = s.link k) := by
  simp [State.putSession]

@[simp] theorem State.warnIfDue_frame (i : SlotIx) :
    (s.warnIfDue i).pending = s.pending ∧ (s.warnIfDue i).now = s.now ∧
    (s.warnIfDue i).freeCount = s.freeCount ∧ (s.warnIfDue i).supervisor = s.supervisor ∧
    (s.warnIfDue i).rate = s.rate ∧ (s.warnIfDue i).part = s.part ∧
    (s.warnIfDue i).restart = s.restart ∧ (s.warnIfDue i).load = s.load ∧
    (s.warnIfDue i).report = s.report ∧ (s.warnIfDue i).imageBuffer = s.imageBuffer ∧
    (s.warnIfDue i).saveJob = s.saveJob ∧ (∀ k, (s.warnIfDue i).entry k = s.entry k) ∧
    (∀ k, (s.warnIfDue i).rightsOf k = s.rightsOf k) ∧
    (∀ k, (s.warnIfDue i).record k = s.record k) ∧
    (∀ k, (s.warnIfDue i).waitingDone k = s.waitingDone k) ∧
    (∀ k, (s.warnIfDue i).busQueue k = s.busQueue k) ∧
    (∀ k, (s.warnIfDue i).engine k = s.engine k) ∧ (∀ k, (s.warnIfDue i).session k = s.session k) ∧
    (∀ k, (s.warnIfDue i).link k = s.link k) := by
  unfold State.warnIfDue
  repeat' split <;> simp [State.setBody]

@[simp] theorem State.leaveQueue_frame (t : EntryIx) (i : SlotIx) :
    (s.leaveQueue t i).pending = s.pending ∧ (s.leaveQueue t i).now = s.now ∧
    (s.leaveQueue t i).freeCount = s.freeCount ∧ (s.leaveQueue t i).supervisor = s.supervisor ∧
    (s.leaveQueue t i).rate = s.rate ∧ (s.leaveQueue t i).part = s.part ∧
    (s.leaveQueue t i).restart = s.restart ∧ (s.leaveQueue t i).load = s.load ∧
    (s.leaveQueue t i).report = s.report ∧ (s.leaveQueue t i).imageBuffer = s.imageBuffer ∧
    (s.leaveQueue t i).saveJob = s.saveJob ∧ (∀ k, (s.leaveQueue t i).slot k = s.slot k) ∧
    (∀ k, (s.leaveQueue t i).rightsOf k = s.rightsOf k) ∧
    (∀ k, (s.leaveQueue t i).record k = s.record k) ∧
    (∀ k, (s.leaveQueue t i).waitingDone k = s.waitingDone k) ∧
    (∀ k, (s.leaveQueue t i).busQueue k = s.busQueue k) ∧
    (∀ k, (s.leaveQueue t i).engine k = s.engine k) ∧
    (∀ k, (s.leaveQueue t i).session k = s.session k) ∧
    (∀ k, (s.leaveQueue t i).notice k = s.notice k) ∧
    (∀ k, (s.leaveQueue t i).link k = s.link k) := by
  simp [State.leaveQueue, State.setWaitQueue]

@[simp] theorem State.vacate_frame (i : SlotIx) (t : EntryIx) :
    (s.vacate i t).pending = s.pending ∧ (s.vacate i t).now = s.now ∧
    (s.vacate i t).freeCount = s.freeCount ∧ (s.vacate i t).supervisor = s.supervisor ∧
    (s.vacate i t).rate = s.rate ∧ (s.vacate i t).part = s.part ∧
    (s.vacate i t).restart = s.restart ∧ (s.vacate i t).load = s.load ∧
    (s.vacate i t).report = s.report ∧ (s.vacate i t).imageBuffer = s.imageBuffer ∧
    (s.vacate i t).saveJob = s.saveJob ∧ (∀ k, (s.vacate i t).rightsOf k = s.rightsOf k) ∧
    (∀ k, (s.vacate i t).record k = s.record k) ∧
    (∀ k, (s.vacate i t).waitingDone k = s.waitingDone k) ∧
    (∀ k, (s.vacate i t).busQueue k = s.busQueue k) ∧ (∀ k, (s.vacate i t).engine k = s.engine k) ∧
    (∀ k, (s.vacate i t).session k = s.session k) ∧ (∀ k, (s.vacate i t).notice k = s.notice k) ∧
    (∀ k, (s.vacate i t).link k = s.link k) := by
  simp [State.vacate, State.freeSlot, State.setBody]

@[simp] theorem State.pushOutbound_frame (l : Link) (r : Response) :
    (s.pushOutbound l r).pending = s.pending ∧ (s.pushOutbound l r).now = s.now ∧
    (s.pushOutbound l r).freeCount = s.freeCount ∧ (s.pushOutbound l r).supervisor = s.supervisor ∧
    (s.pushOutbound l r).rate = s.rate ∧ (s.pushOutbound l r).part = s.part ∧
    (s.pushOutbound l r).restart = s.restart ∧ (s.pushOutbound l r).load = s.load ∧
    (s.pushOutbound l r).report = s.report ∧ (s.pushOutbound l r).imageBuffer = s.imageBuffer ∧
    (s.pushOutbound l r).saveJob = s.saveJob ∧ (∀ k, (s.pushOutbound l r).slot k = s.slot k) ∧
    (∀ k, (s.pushOutbound l r).entry k = s.entry k) ∧
    (∀ k, (s.pushOutbound l r).rightsOf k = s.rightsOf k) ∧
    (∀ k, (s.pushOutbound l r).record k = s.record k) ∧
    (∀ k, (s.pushOutbound l r).waitingDone k = s.waitingDone k) ∧
    (∀ k, (s.pushOutbound l r).busQueue k = s.busQueue k) ∧
    (∀ k, (s.pushOutbound l r).engine k = s.engine k) ∧
    (∀ k, (s.pushOutbound l r).session k = s.session k) ∧
    (∀ k, (s.pushOutbound l r).notice k = s.notice k) := by
  simp [State.pushOutbound]

@[simp] theorem State.freeRecord_frame (p : PoolIx) :
    (s.freeRecord p).pending = s.pending ∧ (s.freeRecord p).now = s.now ∧
    (s.freeRecord p).freeCount = s.freeCount ∧ (s.freeRecord p).supervisor = s.supervisor ∧
    (s.freeRecord p).rate = s.rate ∧ (s.freeRecord p).part = s.part ∧
    (s.freeRecord p).restart = s.restart ∧ (s.freeRecord p).load = s.load ∧
    (s.freeRecord p).report = s.report ∧ (s.freeRecord p).imageBuffer = s.imageBuffer ∧
    (∀ k, (s.freeRecord p).slot k = s.slot k) ∧ (∀ k, (s.freeRecord p).entry k = s.entry k) ∧
    (∀ k, (s.freeRecord p).rightsOf k = s.rightsOf k) ∧
    (∀ k, (s.freeRecord p).waitingDone k = s.waitingDone k) ∧
    (∀ k, (s.freeRecord p).busQueue k = s.busQueue k) ∧
    (∀ k, (s.freeRecord p).engine k = s.engine k) ∧
    (∀ k, (s.freeRecord p).session k = s.session k) ∧
    (∀ k, (s.freeRecord p).notice k = s.notice k) ∧ (∀ k, (s.freeRecord p).link k = s.link k) := by
  simp [State.freeRecord]

@[simp] theorem State.givePlace_frame (l : Link) :
    (s.givePlace l).pending = s.pending ∧ (s.givePlace l).now = s.now ∧
    (s.givePlace l).freeCount = s.freeCount ∧ (s.givePlace l).supervisor = s.supervisor ∧
    (s.givePlace l).rate = s.rate ∧ (s.givePlace l).part = s.part ∧
    (s.givePlace l).restart = s.restart ∧ (s.givePlace l).load = s.load ∧
    (s.givePlace l).report = s.report ∧ (s.givePlace l).imageBuffer = s.imageBuffer ∧
    (∀ k, (s.givePlace l).slot k = s.slot k) ∧ (∀ k, (s.givePlace l).entry k = s.entry k) ∧
    (∀ k, (s.givePlace l).rightsOf k = s.rightsOf k) ∧
    (∀ k, (s.givePlace l).busQueue k = s.busQueue k) ∧
    (∀ k, (s.givePlace l).engine k = s.engine k) ∧ (∀ k, (s.givePlace l).session k = s.session k) ∧
    (∀ k, (s.givePlace l).notice k = s.notice k) := by
  unfold State.givePlace
  split
  · split
    · split <;> simp
    · split <;> simp
  · simp

@[simp] theorem State.placeFreed_frame (l : Link) :
    (s.placeFreed l).pending = s.pending ∧ (s.placeFreed l).now = s.now ∧
    (s.placeFreed l).freeCount = s.freeCount ∧ (s.placeFreed l).supervisor = s.supervisor ∧
    (s.placeFreed l).rate = s.rate ∧ (s.placeFreed l).part = s.part ∧
    (s.placeFreed l).restart = s.restart ∧ (s.placeFreed l).load = s.load ∧
    (s.placeFreed l).report = s.report ∧ (s.placeFreed l).imageBuffer = s.imageBuffer ∧
    (∀ k, (s.placeFreed l).slot k = s.slot k) ∧ (∀ k, (s.placeFreed l).entry k = s.entry k) ∧
    (∀ k, (s.placeFreed l).rightsOf k = s.rightsOf k) ∧
    (∀ k, (s.placeFreed l).busQueue k = s.busQueue k) ∧
    (∀ k, (s.placeFreed l).engine k = s.engine k) ∧ (∀ k, (s.placeFreed l).session k = s.session k) ∧
    (∀ k, (s.placeFreed l).notice k = s.notice k) := by
  unfold State.placeFreed
  split <;> simp

@[simp] theorem State.answer_frame (l : Link) (tag : Byte) (st : Status) (body : List Byte) :
    (s.answer l tag st body).pending = s.pending ∧ (s.answer l tag st body).now = s.now ∧
    (s.answer l tag st body).freeCount = s.freeCount ∧
    (s.answer l tag st body).supervisor = s.supervisor ∧ (s.answer l tag st body).rate = s.rate ∧
    (s.answer l tag st body).part = s.part ∧ (s.answer l tag st body).restart = s.restart ∧
    (s.answer l tag st body).load = s.load ∧ (s.answer l tag st body).report = s.report ∧
    (s.answer l tag st body).imageBuffer = s.imageBuffer ∧
    (s.answer l tag st body).saveJob = s.saveJob ∧
    (∀ k, (s.answer l tag st body).slot k = s.slot k) ∧
    (∀ k, (s.answer l tag st body).entry k = s.entry k) ∧
    (∀ k, (s.answer l tag st body).rightsOf k = s.rightsOf k) ∧
    (∀ k, (s.answer l tag st body).record k = s.record k) ∧
    (∀ k, (s.answer l tag st body).waitingDone k = s.waitingDone k) ∧
    (∀ k, (s.answer l tag st body).busQueue k = s.busQueue k) ∧
    (∀ k, (s.answer l tag st body).engine k = s.engine k) ∧
    (∀ k, (s.answer l tag st body).session k = s.session k) ∧
    (∀ k, (s.answer l tag st body).notice k = s.notice k) := by
  simp [State.answer]

@[simp] theorem State.answerLater_frame (l : Link) :
    (s.answerLater l).pending = s.pending ∧ (s.answerLater l).now = s.now ∧
    (s.answerLater l).freeCount = s.freeCount ∧ (s.answerLater l).supervisor = s.supervisor ∧
    (s.answerLater l).rate = s.rate ∧ (s.answerLater l).part = s.part ∧
    (s.answerLater l).restart = s.restart ∧ (s.answerLater l).load = s.load ∧
    (s.answerLater l).report = s.report ∧ (s.answerLater l).imageBuffer = s.imageBuffer ∧
    (∀ k, (s.answerLater l).slot k = s.slot k) ∧ (∀ k, (s.answerLater l).entry k = s.entry k) ∧
    (∀ k, (s.answerLater l).rightsOf k = s.rightsOf k) ∧
    (∀ k, (s.answerLater l).busQueue k = s.busQueue k) ∧
    (∀ k, (s.answerLater l).engine k = s.engine k) ∧ (∀ k, (s.answerLater l).session k = s.session k) ∧
    (∀ k, (s.answerLater l).notice k = s.notice k) := by
  simp [State.answerLater]

@[simp] theorem State.answerAmong_frame (n : Nat) (l : Link) (tag : Byte) (st : Status) (body : List Byte) :
    (s.answerAmong n l tag st body).pending = s.pending ∧
    (s.answerAmong n l tag st body).now = s.now ∧
    (s.answerAmong n l tag st body).supervisor = s.supervisor ∧
    (s.answerAmong n l tag st body).rate = s.rate ∧ (s.answerAmong n l tag st body).part = s.part ∧
    (s.answerAmong n l tag st body).restart = s.restart ∧
    (s.answerAmong n l tag st body).load = s.load ∧
    (s.answerAmong n l tag st body).report = s.report ∧
    (s.answerAmong n l tag st body).imageBuffer = s.imageBuffer ∧
    (s.answerAmong n l tag st body).saveJob = s.saveJob ∧
    (∀ k, (s.answerAmong n l tag st body).slot k = s.slot k) ∧
    (∀ k, (s.answerAmong n l tag st body).entry k = s.entry k) ∧
    (∀ k, (s.answerAmong n l tag st body).rightsOf k = s.rightsOf k) ∧
    (∀ k, (s.answerAmong n l tag st body).record k = s.record k) ∧
    (∀ k, (s.answerAmong n l tag st body).waitingDone k = s.waitingDone k) ∧
    (∀ k, (s.answerAmong n l tag st body).busQueue k = s.busQueue k) ∧
    (∀ k, (s.answerAmong n l tag st body).engine k = s.engine k) ∧
    (∀ k, (s.answerAmong n l tag st body).session k = s.session k) ∧
    (∀ k, (s.answerAmong n l tag st body).notice k = s.notice k) := by
  unfold State.answerAmong
  split <;> simp

@[simp] theorem State.leaveBusQueue_frame (b : BusIx) (p : PoolIx) :
    (s.leaveBusQueue b p).pending = s.pending ∧ (s.leaveBusQueue b p).now = s.now ∧
    (s.leaveBusQueue b p).freeCount = s.freeCount ∧
    (s.leaveBusQueue b p).supervisor = s.supervisor ∧ (s.leaveBusQueue b p).rate = s.rate ∧
    (s.leaveBusQueue b p).part = s.part ∧ (s.leaveBusQueue b p).restart = s.restart ∧
    (s.leaveBusQueue b p).load = s.load ∧ (s.leaveBusQueue b p).report = s.report ∧
    (s.leaveBusQueue b p).imageBuffer = s.imageBuffer ∧ (s.leaveBusQueue b p).saveJob = s.saveJob ∧
    (∀ k, (s.leaveBusQueue b p).slot k = s.slot k) ∧
    (∀ k, (s.leaveBusQueue b p).entry k = s.entry k) ∧
    (∀ k, (s.leaveBusQueue b p).rightsOf k = s.rightsOf k) ∧
    (∀ k, (s.leaveBusQueue b p).record k = s.record k) ∧
    (∀ k, (s.leaveBusQueue b p).waitingDone k = s.waitingDone k) ∧
    (∀ k, (s.leaveBusQueue b p).engine k = s.engine k) ∧
    (∀ k, (s.leaveBusQueue b p).session k = s.session k) ∧
    (∀ k, (s.leaveBusQueue b p).notice k = s.notice k) ∧
    (∀ k, (s.leaveBusQueue b p).link k = s.link k) := by
  simp [State.leaveBusQueue]

@[simp] theorem State.requestStop_frame (p : PoolIx) :
    (s.requestStop p).pending = s.pending ∧ (s.requestStop p).now = s.now ∧
    (s.requestStop p).freeCount = s.freeCount ∧ (s.requestStop p).supervisor = s.supervisor ∧
    (s.requestStop p).rate = s.rate ∧ (s.requestStop p).part = s.part ∧
    (s.requestStop p).restart = s.restart ∧ (s.requestStop p).load = s.load ∧
    (s.requestStop p).report = s.report ∧ (s.requestStop p).imageBuffer = s.imageBuffer ∧
    (s.requestStop p).saveJob = s.saveJob ∧ (∀ k, (s.requestStop p).slot k = s.slot k) ∧
    (∀ k, (s.requestStop p).entry k = s.entry k) ∧
    (∀ k, (s.requestStop p).rightsOf k = s.rightsOf k) ∧
    (∀ k, (s.requestStop p).waitingDone k = s.waitingDone k) ∧
    (∀ k, (s.requestStop p).busQueue k = s.busQueue k) ∧
    (∀ k, (s.requestStop p).engine k = s.engine k) ∧
    (∀ k, (s.requestStop p).session k = s.session k) ∧
    (∀ k, (s.requestStop p).notice k = s.notice k) ∧
    (∀ k, (s.requestStop p).link k = s.link k) := by
  unfold State.requestStop
  split <;> simp

end Sys2Proof.Machine
end

