-- ==== Sys2Proof/Laws/ArbiterChains.lean ====
section
/-! SUPPORT. The grant arbiter and the transaction unit as chains of effects, with what a grant pass and
a completion leave of every slot. -/

namespace Sys2Proof.Machine

open Relation (ReflTransGen)

/-! ### What a grant leaves of a slot -/

/-- What a grant pass keeps of a slot: its generation, owner and target; FREE and ENDING slots whole; a
HELD slot stays HELD. -/
structure Keeps (a b : Slot) : Prop where
  generation : b.generation = a.generation
  owner : b.body.owner? = a.body.owner?
  target : b.body.target? = a.body.target?
  inFlight : b.body.inFlight? = a.body.inFlight?
  held : a.body.stateName = .held → b.body.stateName = .held
  settled : a.body.stateName = .ending ∨ a.body.stateName = .free → b = a
  unsettled : b.body.stateName = .ending ∨ b.body.stateName = .free → b = a

theorem Keeps.refl (a : Slot) : Keeps a a := ⟨rfl, rfl, rfl, rfl, id, fun _ => rfl, fun _ => rfl⟩

theorem Keeps.trans {a b c : Slot} (h : Keeps a b) (k : Keeps b c) : Keeps a c where
  generation := k.generation.trans h.generation
  owner := k.owner.trans h.owner
  target := k.target.trans h.target
  inFlight := k.inFlight.trans h.inFlight
  held := k.held ∘ h.held
  settled ha := by
    have := h.settled ha
    subst this
    exact k.settled ha
  unsettled hc := by
    have := k.unsettled hc
    subst this
    exact h.unsettled hc

/-- Every slot is kept. -/
def KeepsAll (s s' : State) : Prop := ∀ k, Keeps (s.slot k) (s'.slot k)

theorem KeepsAll.refl (s : State) : KeepsAll s s := fun _ => .refl _

theorem KeepsAll.trans {s t u : State} (h : KeepsAll s t) (k : KeepsAll t u) : KeepsAll s u :=
  fun i => (h i).trans (k i)

/-- The same slots. -/
theorem KeepsAll.of_eq {s s' : State} (h : ∀ k, s'.slot k = s.slot k) : KeepsAll s s' :=
  fun k => (h k).symm ▸ .refl _

/-- A HELD or WAITING slot becomes HELD with the same owner, target and record in flight. -/
theorem keepsAll_setHeld (s : State) (i : SlotIx) (h' : HeldSlot)
    (hb : (s.slot i).body.stateName = .held ∨ (s.slot i).body.stateName = .waiting)
    (ho : (s.slot i).body.owner? = some h'.owner) (ht : (s.slot i).body.target? = some h'.target)
    (hf : (s.slot i).body.inFlight? = h'.inFlight) : KeepsAll s (s.setBody i (.held h')) := by
  intro k
  rw [State.setBody_eq, State.slot_setSlot]
  split
  · subst_vars
    refine ⟨rfl, ho.symm, ht.symm, hf.symm, fun _ => rfl, fun h => ?_, fun h => ?_⟩
    · rcases h with h | h <;> rw [h] at hb <;> simp at hb
    · simp [SlotBody.stateName] at h
  · exact .refl _

theorem keepsAll_warnIfDue (s : State) (i : SlotIx) : KeepsAll s (s.warnIfDue i) := by
  unfold State.warnIfDue
  split
  · rename_i h hb
    split
    · refine .trans (keepsAll_setHeld s i { h with lapseWarned := true } ?_ ?_ ?_ ?_)
        (.of_eq fun k => by simp) <;> simp [hb, SlotBody.stateName, SlotBody.owner?,
          SlotBody.target?, SlotBody.inFlight?]
    · exact .refl _
  · exact .refl _

theorem keepsAll_grantHead {s s' : State} {i : SlotIx} (h : s.grantHead i = some s') :
    KeepsAll s s' := by
  unfold State.grantHead at h
  split at h
  · rename_i w hb
    split at h
    · cases h
      have h1 := keepsAll_setHeld s i (grantedSlot w.owner w.target w.mode w.requestedTerm s.now)
        (by simp [hb, SlotBody.stateName]) (by simp [hb, SlotBody.owner?, grantedSlot])
        (by simp [hb, SlotBody.target?, grantedSlot]) (by simp [hb, SlotBody.inFlight?, grantedSlot])
      exact .trans (.trans h1 (.of_eq fun k => by simp)) (keepsAll_warnIfDue _ i)
    · cases h
  · rename_i w hb
    split at h
    · cases h
      have h1 := keepsAll_setHeld s i { w with mode := .exclusive, upgrade := none }
        (by simp [hb, SlotBody.stateName]) (by simp [hb, SlotBody.owner?])
        (by simp [hb, SlotBody.target?]) (by simp [hb, SlotBody.inFlight?])
      exact .trans h1 (.of_eq fun k => by simp [State.grantUpgrade])
    · cases h
  · cases h
  · cases h

theorem keepsAll_grantLoop (t : EntryIx) (q : List SlotIx) (s : State) :
    KeepsAll s (grantLoop t q s) := by
  induction q generalizing s with
  | nil => exact .refl s
  | cons i rest ih =>
    unfold grantLoop
    split
    · rename_i s' h
      exact .trans (.trans (.of_eq fun k => by simp [State.setWaitQueue]) (keepsAll_grantHead h))
        (ih s')
    · exact .refl s

/-- R37: what a grant pass leaves of every slot. -/
theorem keepsAll_grantPass (s : State) (t : EntryIx) : KeepsAll s (s.grantPass t) :=
  keepsAll_grantLoop t _ s

/-! ### What a grant pass leaves of everything but slots, wait queues and notices -/

theorem grantHead_frame {s s' : State} {i : SlotIx} (h : s.grantHead i = some s') :
    s'.pending = s.pending ∧ s'.now = s.now ∧ s'.freeCount = s.freeCount ∧
    s'.supervisor = s.supervisor ∧ s'.rate = s.rate ∧ s'.part = s.part ∧ s'.restart = s.restart ∧
    s'.load = s.load ∧ s'.report = s.report ∧ s'.imageBuffer = s.imageBuffer ∧
    s'.saveJob = s.saveJob ∧ (∀ k, s'.entry k = s.entry k) ∧ (∀ k, s'.rightsOf k = s.rightsOf k) ∧
    (∀ k, s'.record k = s.record k) ∧ (∀ k, s'.waitingDone k = s.waitingDone k) ∧
    (∀ k, s'.busQueue k = s.busQueue k) ∧ (∀ k, s'.engine k = s.engine k) ∧
    (∀ k, s'.session k = s.session k) ∧ (∀ k, s'.link k = s.link k) := by
  unfold State.grantHead at h
  split at h
  · split at h
    · cases h; simp [State.grantWaiting, State.setBody]
    · cases h
  · split at h
    · cases h; simp [State.grantUpgrade, State.setBody]
    · cases h
  · cases h
  · cases h

theorem grantLoop_frame (t : EntryIx) (q : List SlotIx) (s : State) :
    (grantLoop t q s).pending = s.pending ∧ (grantLoop t q s).now = s.now ∧
    (grantLoop t q s).freeCount = s.freeCount ∧ (grantLoop t q s).supervisor = s.supervisor ∧
    (grantLoop t q s).rate = s.rate ∧ (grantLoop t q s).part = s.part ∧
    (grantLoop t q s).restart = s.restart ∧ (grantLoop t q s).load = s.load ∧
    (grantLoop t q s).report = s.report ∧ (grantLoop t q s).imageBuffer = s.imageBuffer ∧
    (grantLoop t q s).saveJob = s.saveJob ∧
    (∀ k, ((grantLoop t q s).entry k).body = (s.entry k).body) ∧
    (∀ k, k ≠ t → (grantLoop t q s).entry k = s.entry k) ∧
    (∀ k, (grantLoop t q s).rightsOf k = s.rightsOf k) ∧
    (∀ k, (grantLoop t q s).record k = s.record k) ∧
    (∀ k, (grantLoop t q s).waitingDone k = s.waitingDone k) ∧
    (∀ k, (grantLoop t q s).busQueue k = s.busQueue k) ∧
    (∀ k, (grantLoop t q s).engine k = s.engine k) ∧
    (∀ k, (grantLoop t q s).session k = s.session k) ∧
    (∀ k, (grantLoop t q s).link k = s.link k) := by
  induction q generalizing s with
  | nil => simp [grantLoop]
  | cons i rest ih =>
    unfold grantLoop
    split
    · rename_i s' h
      obtain ⟨a1, a2, a3, a4, a5, a6, a7, a8, a9, a10, a11, a12, a13, a14, a15, a16, a17, a18, a19⟩ :=
        grantHead_frame h
      obtain ⟨b1, b2, b3, b4, b5, b6, b7, b8, b9, b10, b11, b12, b12', b13, b14, b15, b16, b17, b18,
        b19⟩ := ih s'
      refine ⟨b1.trans a1, b2.trans a2, b3.trans a3, b4.trans a4, b5.trans a5, b6.trans a6,
        b7.trans a7, b8.trans a8, b9.trans a9, b10.trans a10, b11.trans a11, fun k => ?_,
        fun k hk => ?_, fun k => (b13 k).trans (a13 k), fun k => (b14 k).trans (a14 k),
        fun k => (b15 k).trans (a15 k), fun k => (b16 k).trans (a16 k),
        fun k => (b17 k).trans (a17 k), fun k => (b18 k).trans (a18 k),
        fun k => (b19 k).trans (a19 k)⟩
      · rw [b12, a12, State.setWaitQueue_eq, State.entry_setEntry]
        split
        · subst_vars; rfl
        · rfl
      · rw [b12' k hk, a12, State.setWaitQueue_eq, State.entry_setEntry_ne _ hk]
    · simp

/-- R37: a grant pass on a target touches only slots, the target's wait queue and notices. -/
@[simp] theorem State.grantPass_frame (s : State) (t : EntryIx) :
    (s.grantPass t).pending = s.pending ∧ (s.grantPass t).now = s.now ∧
    (s.grantPass t).freeCount = s.freeCount ∧ (s.grantPass t).supervisor = s.supervisor ∧
    (s.grantPass t).rate = s.rate ∧ (s.grantPass t).part = s.part ∧
    (s.grantPass t).restart = s.restart ∧ (s.grantPass t).load = s.load ∧
    (s.grantPass t).report = s.report ∧ (s.grantPass t).imageBuffer = s.imageBuffer ∧
    (s.grantPass t).saveJob = s.saveJob ∧
    (∀ k, ((s.grantPass t).entry k).body = (s.entry k).body) ∧
    (∀ k, k ≠ t → (s.grantPass t).entry k = s.entry k) ∧
    (∀ k, (s.grantPass t).rightsOf k = s.rightsOf k) ∧
    (∀ k, (s.grantPass t).record k = s.record k) ∧
    (∀ k, (s.grantPass t).waitingDone k = s.waitingDone k) ∧
    (∀ k, (s.grantPass t).busQueue k = s.busQueue k) ∧
    (∀ k, (s.grantPass t).engine k = s.engine k) ∧
    (∀ k, (s.grantPass t).session k = s.session k) ∧
    (∀ k, (s.grantPass t).link k = s.link k) := grantLoop_frame t _ s

/-! ### Grants as effects -/

theorem effects_grantHead {s s' : State} {t : EntryIx} {i : SlotIx} {rest : List SlotIx}
    (hq : (s.entry t).waitQueue = i :: rest) (h : (s.setWaitQueue t rest).grantHead i = some s') :
    Effects s s' := by
  unfold State.grantHead at h
  split at h
  · rename_i w hb
    split at h
    · rename_i hc
      cases h
      exact .trans (.trans (.single (.grantedWaiting t i rest w hq hb hc)) (effects_offerNotice _ _ _))
        (effects_warnIfDue _ i)
    · cases h
  · rename_i w hb
    split at h
    · rename_i hc
      cases h
      exact .trans (.single (.grantedUpgrade t i rest w hq hb hc.1 hc.2)) (effects_offerNotice _ _ _)
    · cases h
  · cases h
  · cases h

theorem effects_grantLoop (t : EntryIx) (q : List SlotIx) (s : State)
    (hq : (s.entry t).waitQueue = q) : Effects s (grantLoop t q s) := by
  induction q generalizing s with
  | nil => exact .refl
  | cons i rest ih =>
    unfold grantLoop
    split
    · rename_i s' h
      refine (effects_grantHead hq h).trans (ih s' ?_)
      obtain ⟨-, -, -, -, -, -, -, -, -, -, -, he, -⟩ := grantHead_frame h
      simp [he, State.setWaitQueue]
    · exact .refl

theorem effects_grantPass (s : State) (t : EntryIx) : Effects s (s.grantPass t) :=
  effects_grantLoop t _ s rfl

theorem effects_grantPassIf (s : State) (c : Bool) (t : EntryIx) : Effects s (s.grantPassIf c t) := by
  unfold State.grantPassIf
  split
  · exact effects_grantPass s t
  · exact .refl

/-! ### Completion -/

theorem effects_freeEnding (s : State) (i : SlotIx) (e : EndingSlot)
    (hb : (s.slot i).body = .ending e) (t : EntryIx) : Effects s (s.freeEnding i t) := by
  have h0 : Effects s (s.freeSlot i) := .single (.freed i e hb)
  unfold State.freeEnding
  dsimp only
  split
  · rename_i f hf
    split
    · exact h0.trans (effects_grantPass _ t)
    · rename_i hu
      exact h0.trans (.single (.gone t f hf (by simpa using hu)))
  · exact h0.trans (effects_grantPass _ t)

theorem effects_clearFlight (s : State) (h : Handle) : Effects s (s.clearFlight h) := by
  unfold State.clearFlight
  split
  · split
    · rename_i hs hb
      exact .single (.kept h.slot hs _ hb rfl rfl rfl rfl)
    · rename_i e hb
      exact effects_freeEnding s h.slot e hb e.target
    · exact .refl
  · exact .refl

theorem effects_route (s : State) (p : PoolIx) (r : Record) (d : Bool) :
    Effects s (s.route p r d) := by
  unfold State.route
  split
  · exact effects_freeRecord s p
  · rename_i l _
    split
    · exact effects_freeRecord s p
    · split
      · rename_i k hs
        unfold State.offerCompletion
        split
        · rename_i hp
          have hp := (Bool.and_eq_true ..).mp hp
          exact (effects_pushOutbound s l _ hp.1 (by simp [hs, Session.isOpen])).trans
            (effects_freeRecord _ p)
        · exact effects_setWaitingDone s l _ fun h => by simp [hs, Session.isClosed] at h
      · exact (effects_offerNotice s l _).trans (effects_freeRecord _ p)
      · exact effects_freeRecord s p

theorem effects_complete (s : State) (p : PoolIx) (st : Status) (n : Nat) :
    Effects s (s.complete p st n) := by
  unfold State.complete
  split
  · exact .refl
  · rename_i r hr
    have h0 := effects_updateRecord s (r' := r.completed st n) hr (.inl rfl)
    dsimp only
    split
    · exact (h0.trans (effects_clearFlight _ _)).trans (effects_route _ _ _ _)
    · exact h0.trans (effects_route _ _ _ _)

theorem effects_withdraw (s : State) (p : PoolIx) (st : Status) : Effects s (s.withdraw p st) := by
  unfold State.withdraw
  split
  · exact .refl
  · exact (effects_leaveBusQueue _ _ _).trans (effects_complete _ _ _ _)

theorem effects_requestStop (s : State) (p : PoolIx) : Effects s (s.requestStop p) := by
  unfold State.requestStop
  split
  · exact .refl
  · rename_i r hr
    exact effects_updateRecord s hr (.inl rfl)

/-! ### What a completion leaves -/

theorem route_frame (s : State) (p : PoolIx) (r : Record) (d : Bool) :
    (s.route p r d).load = s.load ∧ (s.route p r d).restart = s.restart ∧
    (s.route p r d).part = s.part ∧ (∀ k, (s.route p r d).slot k = s.slot k) ∧
    (∀ k, (s.route p r d).entry k = s.entry k) ∧ (∀ k, (s.route p r d).engine k = s.engine k) ∧
    (∀ k, (s.route p r d).session k = s.session k) ∧
    (∀ k, ((s.route p r d).link k).reserved = (s.link k).reserved) := by
  unfold State.route State.offerCompletion
  have hpush : ∀ l k, ((s.pushOutbound l (completionFrame r)).link k).reserved =
      (s.link k).reserved := fun l k => by
    rw [State.pushOutbound, State.link_setLink]
    split
    · subst_vars; rfl
    · rfl
  split
  · simp
  · split
    · simp
    · split
      · split
        · simp [hpush]
        · simp
      · simp
      · simp

theorem freeEnding_frame (s : State) (i : SlotIx) (t : EntryIx) :
    (s.freeEnding i t).load = s.load ∧ (s.freeEnding i t).restart = s.restart ∧
    (s.freeEnding i t).part = s.part ∧ (∀ k, (s.freeEnding i t).engine k = s.engine k) ∧
    (∀ k, (s.freeEnding i t).session k = s.session k) ∧
    (∀ k, (s.freeEnding i t).record k = s.record k) ∧
    (∀ k, (s.freeEnding i t).link k = s.link k) := by
  unfold State.freeEnding State.freeSlot State.setBody
  dsimp only
  split
  · split <;> simp
  · simp

theorem clearFlight_frame (s : State) (h : Handle) :
    (s.clearFlight h).load = s.load ∧ (s.clearFlight h).restart = s.restart ∧
    (s.clearFlight h).part = s.part ∧ (∀ k, (s.clearFlight h).engine k = s.engine k) ∧
    (∀ k, (s.clearFlight h).session k = s.session k) ∧
    (∀ k, (s.clearFlight h).record k = s.record k) ∧
    (∀ k, (s.clearFlight h).link k = s.link k) := by
  unfold State.clearFlight
  split
  · split
    · simp [State.setBody]
    · rename_i e _; exact freeEnding_frame s h.slot e.target
    · simp
  · simp

/-- R76: a completion leaves the engines, the sessions, the load, the restart, the part state and the
place kept at each link. -/
theorem complete_frame (s : State) (p : PoolIx) (st : Status) (n : Nat) :
    (s.complete p st n).load = s.load ∧ (s.complete p st n).restart = s.restart ∧
    (s.complete p st n).part = s.part ∧ (∀ k, (s.complete p st n).engine k = s.engine k) ∧
    (∀ k, (s.complete p st n).session k = s.session k) ∧
    (∀ k, ((s.complete p st n).link k).reserved = (s.link k).reserved) := by
  unfold State.complete
  split
  · simp
  · rename_i r hr
    dsimp only
    split
    · rename_i h _
      obtain ⟨a1, a2, a3, -, -, a4, a5, a6⟩ := route_frame
        ((s.setRecord p (some (r.completed st n))).clearFlight h) p (r.completed st n)
        (s.detached h.slot)
      obtain ⟨b1, b2, b3, b4, b5, -, b6⟩ :=
        clearFlight_frame (s.setRecord p (some (r.completed st n))) h
      simp [a1, a2, a3, a4, a5, a6, b1, b2, b3, b4, b5, b6]
    · obtain ⟨a1, a2, a3, -, -, a4, a5, a6⟩ := route_frame
        (s.setRecord p (some (r.completed st n))) p (r.completed st n) false
      simp [a1, a2, a3, a4, a5, a6]

/-- A slot that is HELD stays so, with its owner and target, when a transaction completes. -/
theorem complete_held (s : State) (p : PoolIx) (st : Status) (n : Nat) (i : SlotIx)
    (hi : (s.slot i).body.stateName = .held) :
    ((s.complete p st n).slot i).body.stateName = .held ∧
      ((s.complete p st n).slot i).body.owner? = (s.slot i).body.owner? ∧
      ((s.complete p st n).slot i).body.target? = (s.slot i).body.target? := by
  have hclear : ∀ (s : State) (h : Handle), (s.slot i).body.stateName = .held →
      ((s.clearFlight h).slot i).body.stateName = .held ∧
      ((s.clearFlight h).slot i).body.owner? = (s.slot i).body.owner? ∧
      ((s.clearFlight h).slot i).body.target? = (s.slot i).body.target? := by
    intro s h hi
    unfold State.clearFlight
    split
    · split
      · rename_i hs hb
        rw [State.setBody_eq, State.slot_setSlot]
        split
        · subst_vars; simp [hb, SlotBody.stateName, SlotBody.owner?, SlotBody.target?]
        · simp [hi]
      · rename_i e hb
        have hne : i ≠ h.slot := by
          rintro rfl
          simp [hb, SlotBody.stateName] at hi
        have hs : (s.freeSlot h.slot).slot i = s.slot i := by
          rw [State.freeSlot_eq, State.slot_setSlot_ne _ hne]
        have hp := keepsAll_grantPass (s.freeSlot h.slot) e.target i
        rw [hs] at hp
        unfold State.freeEnding
        dsimp only
        split
        · split
          · exact ⟨hp.held hi, hp.owner, hp.target⟩
          · simp [hs, hi]
        · exact ⟨hp.held hi, hp.owner, hp.target⟩
      · simp [hi]
    · simp [hi]
  unfold State.complete
  split
  · simp [hi]
  · rename_i r hr
    dsimp only
    split
    · rename_i h _
      obtain ⟨-, -, -, a, -⟩ := route_frame
        ((s.setRecord p (some (r.completed st n))).clearFlight h) p (r.completed st n)
        (s.detached h.slot)
      rw [a i]
      have := hclear (s.setRecord p (some (r.completed st n))) h (by simpa using hi)
      simpa using this
    · obtain ⟨-, -, -, a, -⟩ := route_frame
        (s.setRecord p (some (r.completed st n))) p (r.completed st n) false
      rw [a i]
      simpa using hi

/-! ### The end of a lease -/

theorem withdraw_held (s : State) (p : PoolIx) (st : Status) (i : SlotIx)
    (hi : (s.slot i).body.stateName = .held) :
    ((s.withdraw p st).slot i).body.stateName = .held ∧
      ((s.withdraw p st).slot i).body.owner? = (s.slot i).body.owner? ∧
      ((s.withdraw p st).slot i).body.target? = (s.slot i).body.target? := by
  unfold State.withdraw
  split
  · simp [hi]
  · rename_i r _
    have := complete_held (s.leaveBusQueue r.bus p) p st 0 i (by simpa using hi)
    simpa using this

theorem effects_vacate_held (s : State) (i : SlotIx) (t : EntryIx)
    (hi : (s.slot i).body.stateName = .held) (ht : (s.slot i).body.target? = some t) :
    Effects s (s.vacate i t) := .single (.vacated i t ht (by simp [hi]))

theorem effects_becomeEnding (s : State) (i : SlotIx) (h : HeldSlot) (p : PoolIx)
    (o : Option Link) (c : EndCause) (hb : (s.slot i).body = .held h)
    (ho : o = some h.owner ∨ o = none) : Effects s (s.becomeEnding i h p o c) :=
  .trans (.single (.ended i h o c hb ho)) (effects_requestStop _ p)

theorem effects_endLease (s : State) (i : SlotIx) (h : HeldSlot) (e : LeaseEnd)
    (hb : (s.slot i).body = .held h) : Effects s (s.endLease i h e) := by
  have hn : (s.slot i).body.stateName = .held := by rw [hb]; rfl
  have ht : (s.slot i).body.target? = some h.target := by rw [hb]; rfl
  unfold State.endLease
  dsimp only
  split
  · exact (effects_vacate_held s i _ hn ht).trans (effects_offerNotice _ _ _)
  · rename_i p _
    have hw := withdraw_held s p e.status i hn
    exact ((effects_withdraw s p e.status).trans
      (effects_vacate_held _ i _ hw.1 (hw.2.2.trans ht))).trans (effects_offerNotice _ _ _)
  · rename_i p _
    exact (effects_becomeEnding s i h p _ e.cause hb (.inl rfl)).trans (effects_offerNotice _ _ _)

theorem effects_endLeaseAndPass (s : State) (i : SlotIx) (h : HeldSlot) (e : LeaseEnd)
    (hb : (s.slot i).body = .held h) : Effects s (s.endLeaseAndPass i h e) :=
  (effects_endLease s i h e hb).trans (effects_grantPassIf _ _ _)

/-- Ending a lease leaves the place kept at each link, and the sessions. -/
theorem endLease_frame (s : State) (i : SlotIx) (h : HeldSlot) (e : LeaseEnd) :
    (∀ k, (s.endLease i h e).session k = s.session k) ∧
      (∀ k, ((s.endLease i h e).link k).reserved = (s.link k).reserved) := by
  have hw : ∀ p st, (∀ k, (s.withdraw p st).session k = s.session k) ∧
      (∀ k, ((s.withdraw p st).link k).reserved = (s.link k).reserved) := by
    intro p st
    unfold State.withdraw
    split
    · simp
    · rename_i r _
      obtain ⟨-, -, -, -, a, b⟩ := complete_frame (s.leaveBusQueue r.bus p) p st 0
      simp [a, b]
  unfold State.endLease
  dsimp only
  split
  · simp
  · simp [hw]
  · simp [State.becomeEnding, State.setBody]

theorem endLeaseAndPass_reserved (s : State) (i : SlotIx) (h : HeldSlot) (e : LeaseEnd) (k : Link) :
    ((s.endLeaseAndPass i h e).link k).reserved = (s.link k).reserved := by
  unfold State.endLeaseAndPass State.grantPassIf
  split <;> simp [(endLease_frame s i h e).2]

end Sys2Proof.Machine
end

