-- ==== Sys2Proof/Laws/TeardownChains.lean ====
section
/-! SUPPORT. Session teardown, suspension and the link going DOWN as chains of effects, with what a
teardown leaves nothing of. -/

namespace Sys2Proof.Machine

open Relation (ReflTransGen)

/-- A fold of an operation that is a chain of effects is one. -/
theorem effects_foldl {α : Type} (f : State → α → State) (h : ∀ s a, Effects s (f s a)) (s : State)
    (as : List α) : Effects s (as.foldl f s) := by
  induction as generalizing s with
  | nil => exact .refl
  | cons a as ih => exact (h s a).trans (ih _)

/-- A property of states that an operation keeps, a fold of it keeps. -/
theorem foldl_keep {α : Type} {P : State → Prop} (f : State → α → State)
    (h : ∀ s a, P s → P (f s a)) (s : State) (as : List α) (hs : P s) : P (as.foldl f s) := by
  induction as generalizing s with
  | nil => exact hs
  | cons a as ih => exact ih _ (h s a hs)

/-! ### Records -/

theorem dropFlight_frame (s : State) (h : Handle) :
    (∀ k, (s.dropFlight h).record k = s.record k) ∧
      (∀ k, (s.dropFlight h).waitingDone k = s.waitingDone k) ∧
      (∀ k, (s.dropFlight h).session k = s.session k) ∧
      (∀ k, (s.dropFlight h).link k = s.link k) := by
  unfold State.dropFlight
  split
  · split <;> simp [State.setBody]
  · simp

theorem effects_dropFlight (s : State) (h : Handle) : Effects s (s.dropFlight h) := by
  unfold State.dropFlight
  split
  · split
    · rename_i hs hb
      exact .single (.kept h.slot hs _ hb rfl rfl rfl rfl)
    · exact .refl
  · exact .refl

theorem effects_discardQueued (s : State) (p : PoolIx) (r : Record) :
    Effects s (s.discardQueued p r) := by
  have h := (effects_leaveBusQueue s r.bus p).trans (effects_freeRecord _ p)
  unfold State.discardQueued
  dsimp only
  split
  · exact h.trans (effects_dropFlight _ _)
  · exact h

theorem effects_tearRecord (l : Link) (s : State) (p : PoolIx) : Effects s (State.tearRecord l s p) := by
  unfold State.tearRecord
  split
  · exact .refl
  · rename_i r hr
    split
    · split
      · exact effects_freeRecord s p
      · exact effects_updateRecord s hr (.inr rfl)
      · split
        · exact effects_updateRecord s hr (.inr rfl)
        · exact effects_discardQueued s p r
    · exact .refl

/-- R81: what tearing one record does to the pool, and what it leaves. -/
theorem tearRecord_frame (l : Link) (s : State) (p : PoolIx) :
    (∀ k, k ≠ p → (State.tearRecord l s p).record k = s.record k) ∧
      (∀ r, (State.tearRecord l s p).record p = some r → r.destination ≠ some l) ∧
      (∀ k, (State.tearRecord l s p).waitingDone k = s.waitingDone k) ∧
      (∀ k, (State.tearRecord l s p).session k = s.session k) ∧
      (∀ k, (State.tearRecord l s p).link k = s.link k) := by
  unfold State.tearRecord
  split
  · rename_i hr; simp [hr]
  · rename_i r hr
    split
    · rename_i hd
      have hfree : ∀ s' : State, (∀ k, k ≠ p → (s'.freeRecord p).record k = s'.record k) ∧
          (s'.freeRecord p).record p = none := by
        intro s'
        refine ⟨fun k hk => ?_, ?_⟩ <;> simp [State.freeRecord]
        rw [State.record_setRecord_ne _ hk]
      have hset : ∀ x : Option Record, (∀ k, k ≠ p → (s.setRecord p x).record k = s.record k) :=
        fun x k hk => State.record_setRecord_ne _ hk x
      split
      · exact ⟨(hfree s).1, by simp [(hfree s).2], by simp, by simp, by simp⟩
      · exact ⟨hset _, fun r' h => by simp at h; subst h; simp, by simp, by simp, by simp⟩
      · split
        · exact ⟨hset _, fun r' h => by simp at h; subst h; simp, by simp, by simp, by simp⟩
        · have h1 := hfree (s.leaveBusQueue r.bus p)
          unfold State.discardQueued
          dsimp only
          split
          · rename_i h _
            obtain ⟨a, b, c, d⟩ := dropFlight_frame ((s.leaveBusQueue r.bus p).freeRecord p) h
            exact ⟨fun k hk => (by rw [a, h1.1 k hk]; simp), fun r' hr' => (by
              rw [a, h1.2] at hr'; cases hr'), fun k => by rw [b]; simp, fun k => by rw [c]; simp,
              fun k => by rw [d]; simp⟩
          · exact ⟨fun k hk => by rw [h1.1 k hk]; simp, fun r' hr' => (by
              rw [h1.2] at hr'; cases hr'), by simp, by simp, by simp⟩
    · rename_i hd
      exact ⟨fun _ _ => rfl, fun r' hr' => (by rw [hr] at hr'; cases hr'; exact hd), fun _ => rfl,
        fun _ => rfl, fun _ => rfl⟩

/-- R81: after its records are torn, a session is the destination of none of them. -/
theorem tearRecords_clean (l : Link) (ps : List PoolIx) (s : State) (p : PoolIx) (r : Record)
    (h : (ps.foldl (State.tearRecord l) s).record p = some r) (hd : r.destination = some l) :
    p ∉ ps ∧ s.record p = some r := by
  induction ps generalizing s with
  | nil => exact ⟨by simp, h⟩
  | cons q ps ih =>
    obtain ⟨h1, h2⟩ := ih _ h
    obtain ⟨a, b, -⟩ := tearRecord_frame l s q
    by_cases hq : p = q
    · subst hq; exact absurd hd (b r h2)
    · exact ⟨by simp [hq, h1], (a p hq) ▸ h2⟩

/-! ### Slots -/

theorem effects_tearSlot (l : Link) (s : State) (i : SlotIx) : Effects s (State.tearSlot l s i) := by
  unfold State.tearSlot
  split
  · exact .refl
  · rename_i w hb
    split
    · exact .single (.vacated i w.target (by simp [hb, SlotBody.target?])
        (by simp [hb, SlotBody.stateName]))
    · exact .refl
  · rename_i h hb
    split
    · split
      · exact effects_becomeEnding s i h _ _ _ hb (.inr rfl)
      · exact effects_vacate_held s i _ (by rw [hb]; rfl) (by rw [hb]; rfl)
    · exact .refl
  · rename_i e hb
    split
    · exact .single (.detached i e hb)
    · exact .refl

/-- R117: what tearing one slot does, and what it leaves. -/
theorem tearSlot_frame (l : Link) (s : State) (i : SlotIx) :
    (∀ k, k ≠ i → (State.tearSlot l s i).slot k = s.slot k) ∧
      ((State.tearSlot l s i).slot i).body.owner? ≠ some l ∧
      (∀ p r, (State.tearSlot l s i).record p = some r →
        ∃ r', s.record p = some r' ∧ r'.destination = r.destination) ∧
      (∀ k, (State.tearSlot l s i).waitingDone k = s.waitingDone k) ∧
      (∀ k, (State.tearSlot l s i).session k = s.session k) ∧
      (∀ k, (State.tearSlot l s i).link k = s.link k) := by
  have hvac : ∀ t, (∀ k, k ≠ i → (s.vacate i t).slot k = s.slot k) ∧
      ((s.vacate i t).slot i).body = .free := by
    intro t
    refine ⟨fun k hk => ?_, ?_⟩ <;> simp [State.vacate, State.freeSlot_eq]
    rw [State.slot_setSlot_ne _ hk]
  have hself : (s.slot i).body.owner? ≠ some l → (∀ k, k ≠ i → s.slot k = s.slot k) ∧
      (s.slot i).body.owner? ≠ some l ∧ (∀ p r, s.record p = some r →
        ∃ r', s.record p = some r' ∧ r'.destination = r.destination) ∧
      (∀ k, s.waitingDone k = s.waitingDone k) ∧ (∀ k, s.session k = s.session k) ∧
      (∀ k, s.link k = s.link k) := fun h => ⟨fun _ _ => rfl, h, fun p r h => ⟨r, h, rfl⟩,
        fun _ => rfl, fun _ => rfl, fun _ => rfl⟩
  have hv : ∀ t, (∀ k, k ≠ i → (s.vacate i t).slot k = s.slot k) ∧
      ((s.vacate i t).slot i).body.owner? ≠ some l ∧
      (∀ p r, (s.vacate i t).record p = some r →
        ∃ r', s.record p = some r' ∧ r'.destination = r.destination) ∧
      (∀ k, (s.vacate i t).waitingDone k = s.waitingDone k) ∧
      (∀ k, (s.vacate i t).session k = s.session k) ∧
      (∀ k, (s.vacate i t).link k = s.link k) := fun t =>
    ⟨(hvac t).1, by rw [(hvac t).2]; simp [SlotBody.owner?], fun p r h => ⟨r, by simpa using h, rfl⟩,
      by simp, by simp, by simp⟩
  unfold State.tearSlot
  split
  · rename_i hb; exact hself (by simp [hb, SlotBody.owner?])
  · rename_i w hb
    split
    · exact hv _
    · rename_i ho; exact hself (by simpa [hb, SlotBody.owner?] using ho)
  · rename_i h hb
    split
    · split
      · rename_i p _
        refine ⟨fun k hk => ?_, ?_, fun q r hq => ?_, by simp [State.becomeEnding, State.setBody],
          by simp [State.becomeEnding, State.setBody], by simp [State.becomeEnding, State.setBody]⟩
        · simp [State.becomeEnding, State.setBody_eq]
          rw [State.slot_setSlot_ne _ hk]
        · simp [State.becomeEnding, State.setBody_eq, SlotBody.owner?]
        · unfold State.becomeEnding State.requestStop at hq
          split at hq
          · exact ⟨r, by simpa [State.setBody] using hq, rfl⟩
          · rename_i r0 hr0
            rw [State.record_setRecord] at hq
            split at hq
            · subst_vars
              cases hq
              exact ⟨r0, by simpa [State.setBody] using hr0, rfl⟩
            · exact ⟨r, by simpa [State.setBody] using hq, rfl⟩
      · exact hv _
    · rename_i ho; exact hself (by simpa [hb, SlotBody.owner?] using ho)
  · rename_i e hb
    split
    · refine ⟨fun k hk => ?_, ?_, fun q r hq => ⟨r, by simpa [State.setBody] using hq, rfl⟩,
        by simp [State.setBody], by simp [State.setBody], by simp [State.setBody]⟩
      · rw [State.setBody_eq, State.slot_setSlot_ne _ hk]
      · simp [State.setBody_eq, SlotBody.owner?]
    · rename_i ho; exact hself (by simpa [hb, SlotBody.owner?] using ho)

/-- R117: after its slots are torn, a session owns none of them. -/
theorem tearSlots_unowned (l : Link) (is : List SlotIx) (s : State) (i : SlotIx)
    (h : ((is.foldl (State.tearSlot l) s).slot i).body.owner? = some l) :
    i ∉ is ∧ (s.slot i).body.owner? = some l := by
  induction is generalizing s with
  | nil => exact ⟨by simp, h⟩
  | cons q is ih =>
    obtain ⟨h1, h2⟩ := ih _ h
    obtain ⟨a, b, -⟩ := tearSlot_frame l s q
    by_cases hq : i = q
    · subst hq; exact absurd h2 b
    · exact ⟨by simp [hq, h1], (a i hq) ▸ h2⟩

/-! ### The whole teardown -/

theorem effects_tearHoldings (s : State) (l : Link) : Effects s (s.tearHoldings l) := by
  unfold State.tearHoldings
  dsimp only
  exact (((effects_setWaitingDone s l [] fun _ _ => rfl).trans
    (effects_foldl _ (effects_tearRecord l) _ _)).trans
    (effects_foldl _ (effects_tearSlot l) _ _)).trans (effects_foldl _ effects_grantPass _ _)

/-- A property of states that a teardown's parts keep, its holdings' teardown keeps. -/
theorem tearHoldings_keep {P : State → Prop} (s : State) (l : Link)
    (h0 : P (s.setWaitingDone l [])) (h1 : ∀ s p, P s → P (State.tearRecord l s p))
    (h2 : ∀ s i, P s → P (State.tearSlot l s i)) (h3 : ∀ s t, P s → P (s.grantPass t)) :
    P (s.tearHoldings l) := by
  unfold State.tearHoldings
  exact foldl_keep _ h3 _ _ (foldl_keep _ h2 _ _ (foldl_keep _ h1 _ _ h0))

theorem tearHoldings_frame (s : State) (l : Link) :
    (∀ k, (s.tearHoldings l).session k = s.session k) ∧
      (∀ k, (s.tearHoldings l).link k = s.link k) := by
  refine tearHoldings_keep (P := fun s' => (∀ k, s'.session k = s.session k) ∧
    ∀ k, s'.link k = s.link k) s l (by simp) ?_ ?_ ?_
  · intro s' p h
    obtain ⟨-, -, -, a, b⟩ := tearRecord_frame l s' p
    exact ⟨fun k => (a k).trans (h.1 k), fun k => (b k).trans (h.2 k)⟩
  · intro s' i h
    obtain ⟨-, -, -, -, a, b⟩ := tearSlot_frame l s' i
    exact ⟨fun k => (a k).trans (h.1 k), fun k => (b k).trans (h.2 k)⟩
  · intro s' t h
    simpa using h

/-- R116: after steps 1 and 2 of a teardown the session owns no slot, is the destination of no record,
and has no completion waiting. -/
theorem tearHoldings_settled (s : State) (l : Link) :
    (∀ i, ((s.tearHoldings l).slot i).body.owner? ≠ some l) ∧ (s.tearHoldings l).Clean l := by
  unfold State.tearHoldings
  dsimp only
  generalize hs1 : poolIndices.foldl (State.tearRecord l) (s.setWaitingDone l []) = s1
  have c1 : s1.Clean l := by
    subst hs1
    refine ⟨fun p r hr hd => ?_, ?_⟩
    · exact (tearRecords_clean l _ _ p r hr hd).1 (List.mem_finRange p)
    · exact foldl_keep (P := fun s' => s'.waitingDone l = []) _
        (fun s' p h => ((tearRecord_frame l s' p).2.2.1 l).trans h) _ _ (by simp)
  generalize hs2 : slotIndices.foldl (State.tearSlot l) s1 = s2
  have o2 : ∀ i, (s2.slot i).body.owner? ≠ some l := by
    subst hs2
    exact fun i h => (tearSlots_unowned l _ _ i h).1 (List.mem_finRange i)
  have c2 : s2.Clean l := by
    subst hs2
    refine foldl_keep (P := fun s' => s'.Clean l) _ (fun s' i h => ⟨fun p r hr hd => ?_, ?_⟩) _ _ c1
    · obtain ⟨r', hr', hd'⟩ := (tearSlot_frame l s' i).2.2.1 p r hr
      exact h.1 p r' hr' (hd'.trans hd)
    · exact ((tearSlot_frame l s' i).2.2.2.1 l).trans h.2
  refine foldl_keep (P := fun s' => (∀ i, (s'.slot i).body.owner? ≠ some l) ∧ s'.Clean l) _
    (fun s' t h => ⟨fun i => ?_, fun p r hr => ?_, ?_⟩) _ _ ⟨o2, c2⟩
  · rw [(keepsAll_grantPass s' t i).owner]; exact h.1 i
  · exact h.2.1 p r (by simpa using hr)
  · simpa using h.2.2

theorem effects_teardown (s : State) (l : Link) : Effects s (s.teardown l) :=
  (effects_tearHoldings s l).tail
    (.closed l (tearHoldings_settled s l).1 (tearHoldings_settled s l).2)

/-- R116: a teardown leaves every link unit, and every session but the one it ends. -/
theorem teardown_frame (s : State) (l : Link) :
    (∀ k, (s.teardown l).link k = s.link k) ∧ (s.teardown l).session l = .closed ∧
      (∀ k, k ≠ l → (s.teardown l).session k = s.session k) := by
  obtain ⟨a, b⟩ := tearHoldings_frame s l
  refine ⟨fun k => ?_, ?_, fun k hk => ?_⟩
  · simp [State.teardown, b]
  · simp [State.teardown, State.putSession]
  · simp only [State.teardown, State.putSession, State.refreshAttn_frame]
    rw [State.session_setSession_ne _ hk]
    simp [a]

/-! ### Suspension and the link going DOWN -/

theorem effects_convertDone (l : Link) (s : State) (p : PoolIx) :
    Effects s (State.convertDone l s p) := by
  unfold State.convertDone
  split
  · exact .refl
  · exact (effects_offerNotice _ _ _).trans (effects_freeRecord _ _)

theorem effects_suspend (s : State) (l : Link) (key : Nat) (h : s.session l = .opened key) :
    Effects s (s.suspend l key) := by
  unfold State.suspend
  dsimp only
  exact ((ReflTransGen.single (.suspended l key _ h)).trans
    (effects_setWaitingDone _ l [] fun _ _ => rfl)).trans (effects_foldl _ (effects_convertDone l) _ _)

theorem suspend_session (s : State) (l : Link) (key : Nat) :
    ((s.suspend l key).session l).isOpen = false := by
  unfold State.suspend
  dsimp only
  refine foldl_keep (P := fun s' => (s'.session l).isOpen = false) _ (fun s' p h => ?_) _ _ ?_
  · unfold State.convertDone
    split
    · exact h
    · simpa using h
  · simp [State.putSession, Session.isOpen]

/-- R113: a link that goes DOWN leaves no OPEN session behind it. -/
theorem sessionLosesLine_session (s : State) (l : Link) :
    ((s.sessionLosesLine l).session l).isOpen = false := by
  unfold State.sessionLosesLine
  split
  · split
    · exact suspend_session s l _
    · rw [(teardown_frame s l).2.1]; rfl
  · rename_i h
    cases hs : s.session l with
    | opened key => exact absurd hs (h key)
    | closed => rfl
    | suspended => rfl

theorem effects_sessionLosesLine (s : State) (l : Link) : Effects s (s.sessionLosesLine l) := by
  unfold State.sessionLosesLine
  split
  · rename_i key hs
    split
    · exact effects_suspend s l key hs
    · exact effects_teardown s l
  · exact .refl

theorem effects_tearsFirst (s : State) (l : Link) : Effects s (s.tearsFirst l) := by
  unfold State.tearsFirst
  split
  · exact effects_teardown s l
  · exact .refl

theorem effects_linkDown (s : State) (l : Link) : Effects s (s.linkDown l) :=
  ((effects_tearsFirst s l).trans (effects_sessionLosesLine _ l)).trans <|
    effects_setLink _ l _ fun _ => by
      have := sessionLosesLine_session (s.tearsFirst l) l
      simp [LinkUnit.goDown, LinkUnit.Lawful, LinkUnit.placesTaken, rejectLawful, Framer.lawful, this]

end Sys2Proof.Machine
end

