-- ==== Sys2Proof/Laws/EngineChains.lean ====
section
/-! SUPPORT. The loader, the bus engines and the drain as chains of effects. -/

namespace Sys2Proof.Machine

open Relation (ReflTransGen)

/-- The work of an engine that an attempt on the bus can be made at. -/
def Work.onBus (w : Work) : Prop := w ≠ .none ∧ w ≠ .restore

theorem Work.onBus_record (p : PoolIx) : (Work.record p).onBus := ⟨nofun, nofun⟩
theorem Work.onBus_load : Work.load.onBus := ⟨nofun, nofun⟩

/-! ### Engines -/

/-- R89: the line check changes one engine, to a state that is not FAULT and is lawful for work on a
bus. -/
theorem lineCheck_eq (s : State) (b : BusIx) (a : Attempt) (lines : LineLevels) :
    ∃ e, s.lineCheck b a lines = s.setEngine b e ∧ e.work = (s.engine b).work ∧ e.state ≠ .fault ∧
      (e.work.onBus → e.lawful = true) := by
  unfold State.lineCheck State.beginAttempt State.setEngineState
  cases lines
  · exact ⟨_, rfl, rfl, nofun, fun h => by simpa [Engine.lawful, Work.onBus] using h⟩
  · exact ⟨_, rfl, rfl, nofun, fun h => by simpa [Engine.lawful, Work.onBus] using h⟩
  · exact ⟨_, rfl, rfl, nofun, fun h => by simpa [Engine.lawful, Work.onBus] using h⟩

theorem beginOperation_eq (s : State) (b : BusIx) (lines : LineLevels) :
    ∃ e, s.beginOperation b lines = s.setEngine b e ∧ e.work = (s.engine b).work ∧
      e.state ≠ .fault ∧ (e.work.onBus → e.lawful = true) := by
  obtain ⟨e, h, hw, hf, hl⟩ := lineCheck_eq (s.setEngine b { s.engine b with retriesUsed := 0 }) b
    .operation lines
  refine ⟨e, ?_, by simpa using hw, hf, hl⟩
  rw [State.beginOperation, h, State.setEngine_setEngine]

/-- An engine is written whole: not in FAULT, and lawful. -/
theorem effects_setWorking (s : State) (b : BusIx) (e : Engine) (hf : e.state ≠ .fault)
    (hl : (s.engine b).lawful = true → e.lawful = true) : Effects s (s.setEngine b e) :=
  effects_setEngine s b e fun ⟨h, h8, _⟩ => ⟨hl h, h8, fun h => absurd h hf⟩

theorem effects_lineCheck (s : State) (b : BusIx) (a : Attempt) (lines : LineLevels)
    (hw : (s.engine b).lawful = true → (s.engine b).work.onBus) :
    Effects s (s.lineCheck b a lines) := by
  obtain ⟨e, h, hw', hf, hl⟩ := lineCheck_eq s b a lines
  exact h ▸ effects_setWorking s b e hf fun h => hl (hw' ▸ hw h)

theorem effects_beginOperation (s : State) (b : BusIx) (lines : LineLevels)
    (hw : (s.engine b).lawful = true → (s.engine b).work.onBus) :
    Effects s (s.beginOperation b lines) := by
  obtain ⟨e, h, hw', hf, hl⟩ := beginOperation_eq s b lines
  exact h ▸ effects_setWorking s b e hf fun h => hl (hw' ▸ hw h)

/-- R88: an engine takes work and begins its operation. -/
theorem effects_beginWork (s : State) (b : BusIx) (w : Work) (hw : w.onBus) (lines : LineLevels) :
    Effects s ((s.setEngine b { s.engine b with work := w }).beginOperation b lines) := by
  obtain ⟨e, h, hw', hf, hl⟩ :=
    beginOperation_eq (s.setEngine b { s.engine b with work := w }) b lines
  rw [h, State.setEngine_setEngine]
  refine effects_setWorking s b e hf fun _ => hl ?_
  rw [hw', State.engine_setEngine_self]
  exact hw

theorem effects_setEngineState (s : State) (b : BusIx) (x : EngineState) (hf : x ≠ .fault)
    (hl : (s.engine b).lawful = true → Engine.lawful { s.engine b with state := x } = true) :
    Effects s (s.setEngineState b x) := effects_setWorking s b _ hf hl

theorem effects_engineIdle (s : State) (b : BusIx) : Effects s (s.engineIdle b) :=
  effects_setWorking s b _ nofun fun _ => rfl

theorem effects_beginAttempt (s : State) (b : BusIx) (a : Attempt)
    (hw : (s.engine b).lawful = true → (s.engine b).work.onBus) :
    Effects s (s.beginAttempt b a) :=
  effects_setEngineState s b _ nofun fun h => by
    have := hw h
    simpa [Engine.lawful, Work.onBus] using this

/-- A lawful ACTIVE engine has work on the bus. -/
theorem onBus_of_active {e : Engine} {a : Activity} (ha : e.state = .active a)
    (h : e.lawful = true) : e.work.onBus := by
  unfold Engine.lawful at h
  simp_all [Work.onBus]

/-- An attempt is under way on a lawful engine with work on the bus. -/
theorem onBus_of_underway {s : State} {b : BusIx} {x : Attempt × BusPlan}
    (hx : s.underway b = some x) (h : (s.engine b).lawful = true) : (s.engine b).work.onBus := by
  unfold State.underway at hx
  split at hx
  · rename_i ha; exact onBus_of_active ha h
  · rename_i ha; exact onBus_of_active ha h
  · cases hx

/-- What the engine gave on its bus changes nothing else of it, and nothing else. -/
@[simp] theorem State.engine_setGiven_self (s : State) (b : BusIx) (plan : BusPlan) :
    (s.setGiven b plan).engine b = { s.engine b with given := plan } := by simp [State.setGiven]

theorem effects_setGiven (s : State) (b : BusIx) (plan : BusPlan) : Effects s (s.setGiven b plan) :=
  effects_setEngine s b _ fun h => h

/-- R91: what an attempt that ends is: one under way, with a course by the levels read. -/
theorem attemptRun_some {s s' : State} {b : BusIx} {readings : List Bool} {a : Attempt} {run : BusRun}
    (h : s.attemptRun b readings = some (a, run, s')) :
    ∃ plan, s.underway b = some (a, plan) ∧ runElements plan.elements readings = some run ∧
      s' = s.setGiven b ⟨plan.speed, run.given⟩ := by
  unfold State.attemptRun at h
  split at h
  · cases h
  · split at h
    · cases h
    · cases h; exact ⟨_, ‹_›, ‹_›, rfl⟩

/-! ### The load -/

theorem effects_endLoad (s : State) (o : LoadOutcome) {j : LoadJob} (h : s.load = some j) :
    Effects s (s.endLoad o) :=
  (effects_setReport s _).tail (.loaded j h)

theorem effects_loadFailed (s : State) (why : LoadFailure) : Effects s (s.loadFailed why) := by
  unfold State.loadFailed
  split
  · exact .refl
  · rename_i j hj
    split
    · exact effects_endLoad s _ hj
    · exact effects_endLoad s _ hj

theorem effects_takeLoadOperation (s : State) (lines : LineLevels) :
    Effects s (s.takeLoadOperation lines) := by
  unfold State.takeLoadOperation
  split
  · exact effects_beginWork s 0 .load Work.onBus_load lines
  · exact effects_loadFailed s _
  · exact .refl

theorem effects_handLoadOperation (s : State) (st : LoadStage) (lines : LineLevels) :
    Effects s (s.handLoadOperation st lines) := by
  unfold State.handLoadOperation
  split
  · exact .refl
  · rename_i j hj
    exact (ReflTransGen.single (.loading j _ hj)).trans (effects_takeLoadOperation _ lines)

theorem effects_nextBlock (s : State) (o : Nat) (lines : LineLevels) {j : LoadJob}
    (h : s.load = some j) : Effects s (s.nextBlock o lines) := by
  unfold State.nextBlock
  split
  · exact effects_endLoad s _ h
  · split
    · exact effects_handLoadOperation s _ lines
    · exact effects_handLoadOperation s _ lines

/-- R140: what a block that is accepted is. -/
theorem judgeBlock_target {s : State} {j : LoadJob} {block : List Byte} {t : EntryIx}
    {f : TargetFields} (h : s.judgeBlock j block = .target t f) :
    f.valid = true ∧ s.clashes t f = false := by
  unfold State.judgeBlock State.judgeTarget judgeRights at h
  dsimp only at h
  (repeat' split at h) <;> simp_all

theorem judgeBlock_rights {s : State} {j : LoadJob} {block : List Byte} {l : Link} {r : Rights}
    (h : s.judgeBlock j block = .rights l r) : r.valid = true := by
  unfold State.judgeBlock State.judgeTarget judgeRights at h
  dsimp only at h
  (repeat' split at h) <;> simp_all

theorem effects_classifyBlock (s : State) (j : LoadJob) (o : Nat) (block : List Byte)
    (h : s.load = some j) : Effects s (s.classifyBlock j o block) := by
  unfold State.classifyBlock
  split
  · exact effects_setReport s _
  · rename_i t f hj
    obtain ⟨hv, hc⟩ := judgeBlock_target hj
    exact ((ReflTransGen.single (.written t f hv hc (.inr (.inr (by rw [h]; rfl))))).trans
      (.single (.loading j _ (by simpa [State.makePresent] using h)))).trans (effects_setReport _ _)
  · rename_i l r hj
    exact ((ReflTransGen.single (.rights l r (judgeBlock_rights hj))).trans
      (.single (.loading j _ (by simpa using h)))).trans (effects_setReport _ _)

theorem classifyBlock_load (s : State) (j : LoadJob) (o : Nat) (block : List Byte)
    (h : s.load = some j) : ∃ j', (s.classifyBlock j o block).load = some j' := by
  unfold State.classifyBlock
  split
  · exact ⟨j, by simpa using h⟩
  · exact ⟨_, rfl⟩
  · exact ⟨_, rfl⟩

theorem effects_headerRead (s : State) (o : Nat) (data : List Byte) (lines : LineLevels)
    {j : LoadJob} (h : s.load = some j) : Effects s (s.headerRead o data lines) := by
  unfold State.headerRead
  dsimp only
  split
  · exact effects_endLoad s _ h
  · split
    · exact effects_endLoad s _ h
    · exact (effects_setImage s data).trans (effects_handLoadOperation _ _ lines)

theorem effects_bodyRead (s : State) (j : LoadJob) (o len got : Nat) (data : List Byte)
    (lines : LineLevels) (h : s.load = some j) :
    Effects s (s.bodyRead j o len got data lines) := by
  unfold State.bodyRead
  dsimp only
  have h0 := effects_setImage s (s.imageBuffer ++ data)
  split
  · exact h0.trans (effects_handLoadOperation _ _ lines)
  · obtain ⟨j', hj'⟩ := classifyBlock_load (s.setImage (s.imageBuffer ++ data)) j o
      (s.setImage (s.imageBuffer ++ data)).imageBuffer (by simpa using h)
    exact (h0.trans (effects_classifyBlock _ j o _ (by simpa using h))).trans
      (effects_nextBlock _ _ lines hj')

theorem effects_loadAdvance (s : State) (data : List Byte) (lines : LineLevels) :
    Effects s (s.loadAdvance data lines) := by
  unfold State.loadAdvance
  split
  · exact .refl
  · rename_i j hj
    split
    · split
      · exact effects_nextBlock s _ lines hj
      · exact effects_endLoad s _ hj
    · split
      · exact effects_endLoad s _ hj
      · exact effects_endLoad s _ hj
    · exact effects_headerRead s _ data lines hj
    · exact effects_bodyRead s j _ _ _ data lines hj

/-! ### The drain -/

theorem effects_checkDrain (s : State) (lines : LineLevels) : Effects s (s.checkDrain lines) := by
  unfold State.checkDrain
  split
  · rename_i scope hr
    split
    · rename_i hf
      split
      · exact .single (.drainedKeep _ hr)
      · exact ((ReflTransGen.single (.drainedReload _ hr hf)).trans
          (effects_setReport _ emptyReport)).trans (effects_takeLoadOperation _ lines)
    · exact .refl
  · exact .refl

/-! ### Endings -/

theorem effects_endRecord (s : State) (b : BusIx) (p : PoolIx) (st : Status) (n : Nat)
    (lines : LineLevels) : Effects s (s.endRecord b p st n lines) :=
  ((effects_engineIdle s b).trans (effects_complete _ p st n)).trans (effects_checkDrain _ lines)

theorem effects_retry {s s' : State} {b : BusIx} {limit : Nat} (h : s.retry? b limit = some s')
    (hw : (s.engine b).work.onBus) : Effects s s' := by
  unfold State.retry? at h
  split at h
  · cases h
    exact effects_setWorking s b _ nofun fun _ => by simpa [Engine.lawful, Work.onBus] using hw
  · cases h

theorem effects_retryRecord (s : State) (b : BusIx) (p : PoolIx) (r : Record) (lines : LineLevels)
    (hw : (s.engine b).work.onBus) : Effects s (s.retryRecord b p r lines) := by
  unfold State.retryRecord
  split
  · rename_i s' h
    exact effects_retry h hw
  · exact effects_endRecord s b p _ _ lines

theorem nextSegment_destination {r r' : Record} (h : r.nextSegment = some r') :
    r'.destination = r.destination := by
  unfold Record.nextSegment at h
  (repeat' split at h) <;> simp_all <;> subst_vars <;> rfl

theorem effects_segmentBoundary (s : State) (b : BusIx) (p : PoolIx) (r : Record)
    (lines : LineLevels) (hr : s.record p = some r) (hw : (s.engine b).work.onBus) :
    Effects s (s.segmentBoundary b p r lines) := by
  unfold State.segmentBoundary
  split
  · exact effects_endRecord s b p _ _ lines
  · rename_i r' hn
    have h0 := effects_updateRecord s hr (.inl (nextSegment_destination hn))
    dsimp only
    split
    · exact h0.trans (effects_endRecord _ b p _ _ lines)
    · exact h0.trans (effects_beginOperation _ b lines fun _ => by simpa using hw)

theorem raised_destination (r : Record) (n : Nat) : (r.raised n).destination = r.destination := by
  unfold Record.raised
  split <;> rfl

theorem effects_segmentSent (s : State) (b : BusIx) (p : PoolIx) (r : Record)
    (lines : LineLevels) (hr : s.record p = some r) (hw : (s.engine b).work.onBus) :
    Effects s (s.segmentSent b p r lines) := by
  unfold State.segmentSent
  dsimp only
  have h0 := effects_updateRecord s (r' := r.raised r.segmentLength) hr
    (.inl (raised_destination r _))
  split
  · exact h0.trans (effects_lineCheck _ b _ lines fun _ => by simpa using hw)
  · exact h0.trans (effects_segmentBoundary _ b p _ lines (by simp) (by simpa using hw))

theorem effects_pollRefused (s : State) (b : BusIx) (p : PoolIx) (r : Record) (began : Nat)
    (lines : LineLevels) (hw : (s.engine b).work.onBus) :
    Effects s (s.pollRefused b p r began lines) := by
  unfold State.pollRefused
  split
  · exact effects_setEngineState s b _ nofun fun _ => by simpa [Engine.lawful, Work.onBus] using hw
  · exact effects_endRecord s b p _ _ lines

/-! ### FAULT and the restore -/

theorem effects_setFault (s : State) (b : BusIx) (reason : FaultReason) :
    Effects s (s.setFault b reason) :=
  .single (.engine b _ [] fun _ => ⟨rfl, by simp, fun _ => rfl⟩)

theorem effects_failQueue (s : State) (q : List PoolIx) : Effects s (s.failQueue q) :=
  effects_foldl _ (fun s p => effects_complete s p _ _) s q

theorem effects_failWork (s : State) (w : Work) (st : Status) : Effects s (s.failWork w st) := by
  unfold State.failWork
  split
  · split
    · exact effects_complete s _ _ _
    · exact .refl
  · exact effects_loadFailed s _
  · exact .refl
  · exact .refl

theorem effects_busNotices (s : State) (b : BusIx) (d : Detail) (ls : List Link) :
    Effects s (s.busNotices b d ls) :=
  effects_foldl _ (fun s l => effects_offerNotice s l _) s ls

theorem effects_enterFault (s : State) (b : BusIx) (reason : FaultReason) (st : Status)
    (lines : LineLevels) : Effects s (s.enterFault b reason st lines) := by
  unfold State.enterFault
  dsimp only
  exact ((((effects_setFault s b reason).trans (effects_failWork _ _ st)).trans
    (effects_failQueue _ _)).trans (effects_busNotices _ b _ _)).trans (effects_checkDrain _ lines)

theorem effects_answerRestore (s : State) (b : BusIx) (before : Link → Nat) (st : Status)
    (body : List Byte) : Effects s (s.answerRestore b before st body) := by
  unfold State.answerRestore
  split
  · exact .refl
  · rename_i l tag _
    dsimp only
    have h0 : Effects s (s.setLink l { s.link l with restoreHold := none }) :=
      effects_setLink s l _ fun h => h
    split
    · rename_i hr
      exact h0.trans (effects_answerAmong _ _ l tag st body (by simpa using hr))
    · exact h0

theorem effects_restoreEnds (s : State) (b : BusIx) (r : RecoveryResult) :
    Effects s (s.restoreEnds b r) := by
  have hfail : Effects s (((s.setFault b (recoveryReason r)).failQueue (s.busQueue b)).answerRestore
      b (fun l => (s.link l).outbound.length) .failed [(recoveryReason r).code]) :=
    ((effects_setFault s b _).trans (effects_failQueue _ _)).trans (effects_answerRestore _ b _ _ _)
  unfold State.restoreEnds
  cases r
  · exact ((effects_engineIdle s b).trans (effects_answerRestore _ b _ _ _)).trans
      (effects_busNotices _ b _ _)
  · exact hfail
  · exact hfail

theorem effects_stretchRecovered (s : State) (b : BusIx) (lines : LineLevels) :
    Effects s (s.stretchRecovered b lines) := by
  unfold State.stretchRecovered
  split
  · split
    · exact effects_endRecord s b _ _ _ lines
    · exact effects_engineIdle s b
  · exact (effects_engineIdle s b).trans (effects_loadFailed _ _)
  · exact effects_engineIdle s b

/-! ### The engine events -/

theorem effects_takeWork (s : State) (b : BusIx) (lines : LineLevels) :
    Effects s (s.takeWork b lines) := by
  unfold State.takeWork
  split
  · split
    · exact effects_takeLoadOperation s lines
    · split
      · exact .refl
      · rename_i p rest hq
        split
        · rename_i r hr
          have h1 : Effects s (s.setBusQueue b rest) :=
            effects_setBusQueue s b rest fun ⟨h, h8, hf⟩ => ⟨h, by
              rw [hq, List.length_cons] at h8; omega, fun h => by
              have := hf h; rw [hq] at this; cases this⟩
          have h2 := effects_updateRecord (s.setBusQueue b rest) (r := r)
            (r' := { r with state := .active }) (by simpa using hr) (.inl rfl)
          exact (h1.trans h2).trans (effects_beginWork _ b _ (Work.onBus_record p) lines)
        · exact .refl
  · exact .refl

/-- R94, R95, R97: an event that ends an attempt acts on the state that records what was given. -/
theorem effects_attemptRun {s s' t : State} {b : BusIx} {readings : List Bool} {a : Attempt}
    {run : BusRun} {w : Work} (h : s.attemptRun b readings = some (a, run, s'))
    (hw : (s.engine b).work = w) (ho : w.onBus)
    (ht : (s'.engine b).work.onBus → s'.record = s.record → Effects s' t) : Effects s t := by
  obtain ⟨plan, -, -, rfl⟩ := attemptRun_some h
  refine (effects_setGiven s b _).trans (ht ?_ (by funext p; simp [State.setGiven]))
  simpa [hw] using ho

theorem effects_readEnds (s : State) (b : BusIx) (p : PoolIx) (r : Record) (run : BusRun)
    (lines : LineLevels) (hr : s.record p = some r) (hw : (s.engine b).work.onBus) :
    Effects s (s.readEnds b p r run lines) := by
  unfold State.readEnds
  split
  · exact effects_retryRecord s b p r lines hw
  · exact (effects_updateRecord s (r' := { r with data := run.data }) hr (.inl rfl)).trans
      (effects_endRecord _ b p _ _ lines)

theorem effects_loadEnds (s : State) (b : BusIx) (run : BusRun) (lines : LineLevels)
    (hw : (s.engine b).work.onBus) : Effects s (s.loadEnds b run lines) := by
  unfold State.loadEnds
  split
  · split
    · rename_i s' h
      exact effects_retry h hw
    · exact (effects_engineIdle s b).trans (effects_loadFailed _ _)
  · exact (effects_engineIdle s b).trans (effects_loadAdvance _ _ lines)

theorem effects_readOperationEnds (s : State) (b : BusIx) (readings : List Bool)
    (lines : LineLevels) : Effects s (s.readOperationEnds b readings lines) := by
  unfold State.readOperationEnds
  split
  · rename_i run s' h
    split
    · rename_i p hw
      split
      · rename_i r hr
        split
        · exact effects_attemptRun h hw (Work.onBus_record p) fun ho hs =>
            effects_readEnds s' b p r run lines (hs ▸ hr) ho
        · exact .refl
      · exact .refl
    · rename_i hw
      exact effects_attemptRun h hw Work.onBus_load fun ho _ => effects_loadEnds s' b run lines ho
    · exact .refl
  · exact .refl

theorem effects_segmentEnds (s : State) (b : BusIx) (p : PoolIx) (r : Record) (run : BusRun)
    (lines : LineLevels) (hr : s.record p = some r) (hw : (s.engine b).work.onBus) :
    Effects s (s.segmentEnds b p r run lines) := by
  unfold State.segmentEnds
  split
  · split
    · exact effects_retryRecord s b p r lines hw
    · exact effects_endRecord s b p _ _ lines
  · exact effects_segmentSent s b p r lines hr hw

theorem effects_writeSegmentEnds (s : State) (b : BusIx) (readings : List Bool)
    (lines : LineLevels) : Effects s (s.writeSegmentEnds b readings lines) := by
  unfold State.writeSegmentEnds
  split
  · rename_i run s' h
    split
    · rename_i p hw
      split
      · rename_i r hr
        split
        · exact .refl
        · exact effects_attemptRun h hw (Work.onBus_record p) fun ho hs =>
            effects_segmentEnds s' b p r run lines (hs ▸ hr) ho
      · exact .refl
    · exact .refl
  · exact .refl

theorem effects_busyPollEnds (s : State) (b : BusIx) (readings : List Bool) (lines : LineLevels) :
    Effects s (s.busyPollEnds b readings lines) := by
  unfold State.busyPollEnds
  split
  · rename_i began run s' h
    split
    · rename_i p hw
      split
      · rename_i r hr
        split
        · exact effects_attemptRun h hw (Work.onBus_record p) fun ho _ =>
            effects_pollRefused s' b p r began lines ho
        · exact effects_attemptRun h hw (Work.onBus_record p) fun ho hs =>
            effects_segmentBoundary s' b p r lines (hs ▸ hr) ho
      · exact .refl
    · exact .refl
  · exact .refl

theorem effects_retryWaitExpires (s : State) (b : BusIx) (lines : LineLevels) :
    Effects s (s.retryWaitExpires b lines) := by
  unfold State.retryWaitExpires
  split
  · rename_i d hs
    exact (effects_advanceTo s d).trans
      (effects_lineCheck _ b _ lines fun h => onBus_of_active (by simpa using hs) h)
  · exact .refl

theorem effects_pollWaitExpires (s : State) (b : BusIx) (lines : LineLevels) :
    Effects s (s.pollWaitExpires b lines) := by
  unfold State.pollWaitExpires
  split
  · rename_i d began hs
    exact (effects_advanceTo s d).trans
      (effects_lineCheck _ b _ lines fun h => onBus_of_active (by simpa using hs) h)
  · exact .refl

theorem cutOff_destination (r : Record) (run : BusRun) : (r.cutOff run).destination = r.destination := by
  unfold Record.cutOff
  split
  · rfl
  · exact raised_destination r _

theorem keepStretched_engine (s : State) (b : BusIx) (a : Attempt) (run : BusRun) :
    (s.keepStretched b a run).engine b = s.engine b := by
  unfold State.keepStretched
  split
  · split
    · simp
    · rfl
  · rfl

theorem effects_keepStretched (s : State) (b : BusIx) (a : Attempt) (run : BusRun) :
    Effects s (s.keepStretched b a run) := by
  unfold State.keepStretched
  split
  · split
    · rename_i r hr
      exact effects_updateRecord s hr (.inl (cutOff_destination r run))
    · exact .refl
  · exact .refl

theorem effects_stretchFault (s : State) (b : BusIx) (point : StretchPoint) :
    Effects s (s.stretchFault b point) := by
  unfold State.stretchFault
  split
  · rename_i a plan hx
    split
    · refine ((effects_keepStretched s b a _).trans (effects_setGiven _ b _)).trans
        (effects_setEngineState _ b _ nofun fun h => ?_)
      rw [State.engine_setGiven_self, keepStretched_engine] at h
      have := onBus_of_underway hx h
      simpa [keepStretched_engine, Engine.lawful, Work.onBus] using this
    · exact .refl
  · exact .refl

theorem effects_clockStuck (s : State) (b : BusIx) (lines : LineLevels) :
    Effects s (s.clockStuck b lines) := by
  unfold State.clockStuck
  split
  · exact effects_enterFault s b _ _ lines
  · exact .refl

theorem effects_recoveryOutcome (s : State) (b : BusIx) (res : RecoveryResult)
    (lines : LineLevels) : Effects s (s.recoveryOutcome b res lines) := by
  have hline : ∀ a, ((s.engine b).lawful = true → (s.engine b).work.onBus) →
      Effects s (s.lineRecoveryEnds b a res lines) := by
    intro a hw
    unfold State.lineRecoveryEnds
    split
    · exact effects_beginAttempt s b a hw
    · exact effects_enterFault s b _ _ lines
  unfold State.recoveryOutcome
  split
  · rename_i a hs
    refine hline a fun h => ?_
    rw [Engine.lawful, hs] at h
    simpa [Work.onBus] using h
  · rename_i a hs
    exact hline a (onBus_of_active hs)
  · unfold State.stretchRecoveryEnds
    split
    · exact effects_stretchRecovered s b lines
    · exact effects_enterFault s b _ _ lines
  · exact effects_restoreEnds s b res
  · exact .refl

theorem effects_recoveryEnds (s : State) (b : BusIx) (met : List LineLevels) (lines : LineLevels) :
    Effects s (s.recoveryEnds b met lines) := by
  unfold State.recoveryEnds
  split
  · split
    · exact (effects_setGiven s b _).trans (effects_recoveryOutcome _ b _ lines)
    · exact .refl
  · exact .refl

/-! ### A step with no command waiting -/

theorem effects_clockRises (s : State) (b : BusIx) (lines : LineLevels) :
    Effects s (s.clockRises b lines) := by
  unfold State.clockRises
  split
  · rename_i a hs
    exact effects_lineCheck s b a lines (onBus_of_active hs)
  · exact .refl

theorem effects_tick (s : State) : Effects s s.tick :=
  .one (.pool s.pool s.doneWaiting s.saveJob s.freeCount (s.now + 1) s.report s.imageBuffer
    (Nat.le_succ _) fun _ _ h => h)

theorem effects_idles (s : State) : Effects s s.idles := by
  have h0 := effects_setFreeCount s (s.freeCount + 1)
  unfold State.idles
  split
  · dsimp only
    split
    · exact h0.trans (effects_clockRises _ 0 _)
    · exact h0.trans (effects_clockRises _ 0 _)
    · exact h0.trans (effects_clockRises _ 1 _)
    · exact h0.trans (effects_clockRises _ 1 _)
    · exact h0.trans (effects_tick _)
  · exact effects_tick s

end Sys2Proof.Machine
end

