-- ==== Sys2Proof/Laws/CommandChains.lean ====
section
/-! SUPPORT. Every command but COLD_START is a chain of moves (`moves_exec`): what an event can do, said
once. A law that every effect and every opening of a lease keeps, every such command keeps. -/

namespace Sys2Proof.Machine

open Relation (ReflTransGen)

/-! ### The intake -/

theorem lawful_taken {u : LinkUnit} {ss : Session} {f : Frame} {rest : List Frame}
    (hp : u.granted = true ∨ u.placeAvailable = true) (hq : u.requestQueue = f :: rest)
    (h : u.Lawful ss) :
    (u.taken rest).Lawful ss := by
  obtain ⟨h1, h2, h3, h4, h5, h6, h7, h8, h9⟩ := h
  have hp : u.outbound.length + (if u.reserved then 1 else 0) < 6 := by
    have h5 := h5.1
    rcases hp with hp | hp
    · simp only [LinkUnit.placesTaken, hp, if_true] at h5; omega
    · have hp : u.placesTaken < 6 := of_decide_eq_true hp
      simp only [LinkUnit.placesTaken] at hp; omega
  rw [hq, List.length_cons] at h1 h2 h3
  refine ⟨?_, fun h => ?_, fun h => ?_, fun g hg => h4 g ?_, ⟨?_, nofun⟩, h6, h7, h8, fun hd => ?_⟩
  · simp only [LinkUnit.taken]; omega
  · simp only [LinkUnit.taken] at h ⊢
    rw [h2 (by omega)]
    have : rest.length ≠ 1 := by omega
    simp [this]
  · simp only [LinkUnit.taken] at h ⊢
    by_cases h1 : rest.length = 1
    · simp [h1]
    · rw [h3 (by omega)]; simp
  · rw [hq]; exact List.mem_cons_of_mem _ hg
  · simp only [LinkUnit.placesTaken, LinkUnit.taken, if_true]; simp; omega
  · have := (h9 hd).2.1
    rw [hq] at this; cases this

theorem effects_taking (s : State) (l : Link) {f : Frame} {rest : List Frame}
    (h : s.Offers l f rest) : Effects s (s.taking l rest) :=
  effects_setLink s l _ <| lawful_taken (by
    have := h.1
    simp only [State.intakeReady, State.intakeFirst, Bool.and_eq_true, Bool.or_eq_true] at this
    exact this.1.imp_right fun h => h.1.1) h.2

/-- R157: what taking a frame does. -/
theorem takeFrame_eq {s s' : State} {l : Link} {p : Byte → Bool} {f : Frame}
    (h : s.takeFrame l p = some (f, s')) :
    p f.code = true ∧ ∃ rest, s.Offers l f rest ∧ s' = s.taking l rest := by
  unfold State.takeFrame at h
  split at h
  · rename_i hr
    split at h
    · rename_i g rest hq
      split at h
      · rename_i hp
        cases h
        exact ⟨hp, rest, ⟨hr, hq⟩, rfl⟩
      · cases h
    · cases h
  · cases h

/-- R157: what a request that passes the generic checks finds. -/
theorem genericRefusal_none {s : State} {l : Link} {r : Request} {f : Frame}
    (h : s.genericRefusal l r f = none) :
    s.part = .ready ∧ r.bodyOk f.body = true ∧ ((s.session l).isOpen = true ∨ r = .hello) ∧
      (r.supervisor = true → s.supervisor = some l) := by
  unfold State.genericRefusal at h
  split at h
  · cases h
  · rename_i h1
    split at h
    · cases h
    · rename_i h2
      split at h
      · cases h
      · rename_i h3
        split at h
        · cases h
        · rename_i h4
          refine ⟨?_, by simpa using h2, ?_, ?_⟩
          · cases hp : s.part
            · exact absurd hp h1
            · rfl
          · by_cases hr : r = .hello
            · exact .inr hr
            · refine .inl ?_
              simpa [hr] using h3
          · intro hs
            simpa [hs] using h4

/-- R157: a request is a chain of moves if its owner's part is one. -/
theorem moves_serve (s : State) (l : Link) (r : Request) (owner : Link → Frame → State → State)
    (h : ∀ s f, (s.link l).reserved = true → s.part = .ready → r.bodyOk f.body = true →
      ((s.session l).isOpen = true ∨ r = .hello) → Moves s (owner l f s)) :
    Moves s (s.serve l r owner) := by
  unfold State.serve
  split
  · exact .refl
  · rename_i f s' ht
    obtain ⟨-, rest, ho, rfl⟩ := takeFrame_eq ht
    have hres : ((s.taking l rest).link l).reserved = true := by
      simp [State.taking, LinkUnit.taken]
    refine (effects_taking s l ho).moves.trans ?_
    split
    · exact (effects_answer _ l _ _ _ hres).moves
    · rename_i hg
      obtain ⟨h1, h2, h3, -⟩ := genericRefusal_none hg
      exact h _ f hres h1 h2 h3

/-! ### Session requests -/

theorem effects_openSession (s : State) (l : Link) (key : Nat) (tag : Byte)
    (hr : (s.link l).reserved = true) (b : Bool) :
    Effects s ((s.openSession l key).answerHello l tag b) :=
  (ReflTransGen.single (Effect.opened l key hr)).trans
    (effects_answer (s.openSession l key) l _ _ _ (by simpa [State.openSession] using hr))

theorem effects_serveHello (s : State) (l : Link) (f : Frame) (hr : (s.link l).reserved = true) :
    Effects s (serveHello l f s) := by
  have hnew := fun key => (effects_teardown s l).trans
    (effects_openSession (s.teardown l) l key f.tag (by rw [(teardown_frame s l).1]; exact hr) false)
  unfold serveHello
  split
  · exact effects_answer s l _ _ _ hr
  · unfold State.helloByState
    split
    · exact effects_openSession s l _ f.tag hr false
    · split
      · exact effects_answer s l _ _ _ hr
      · exact hnew _
    · rename_i held d hs
      split
      · rename_i hk
        subst hk
        exact (ReflTransGen.single (Effect.resumed l _ d hs hr)).trans
          (effects_answer (s.putSession l _) l _ _ _ (by simpa using hr))
      · exact hnew _

theorem effects_serveBye (s : State) (l : Link) (f : Frame) (hr : (s.link l).reserved = true) :
    Effects s (serveBye l f s) :=
  (effects_answer s l _ _ _ hr).trans (effects_teardown _ l)

/-! ### Lease requests -/

/-- R8.5: the slot that OPEN takes is FREE. -/
theorem lowestFree_free {s : State} {i : SlotIx} (h : s.lowestFree = some i) :
    (s.slot i).body = .free := by
  have := List.find?_some h
  simpa using this

theorem moves_serveOpen (s : State) (l : Link) (f : Frame) (hr : (s.link l).reserved = true)
    (hp : s.part = .ready) (hs : (s.session l).isOpen = true) : Moves s (serveOpen l f s) := by
  unfold serveOpen
  split
  · exact (effects_answer s l _ _ _ hr).moves
  · rename_i a _
    unfold State.admitOpen
    split
    · exact (effects_answer s l _ _ _ hr).moves
    · exact (effects_answer s l _ _ _ hr).moves
    · rename_i fields ht
      split
      · exact (effects_answer s l _ _ _ hr).moves
      · split
        · exact (effects_answer s l _ _ _ hr).moves
        · rename_i ho
          split
          · exact (effects_answer s l _ _ _ hr).moves
          · split
            · exact (effects_answer s l _ _ _ hr).moves
            · rename_i i hi
              have hf := lowestFree_free hi
              split
              · rename_i hg
                refine (ReflTransGen.single (.opening (.held i l a.target a.mode
                  (requestedTerm fields a.term) s.now fields hf hp ht hs (by simpa using ho) hg))).trans
                  (Effects.moves ?_)
                exact (effects_warnIfDue _ i).trans
                  (effects_answer _ l _ _ _ (by simpa [State.leaveFree] using hr))
              · unfold State.openContended
                split
                · exact (effects_answer s l _ _ _ hr).moves
                · split
                  · exact (effects_answer s l _ _ _ hr).moves
                  · rename_i hq
                    refine (ReflTransGen.single (.opening (.waiting i
                      ⟨l, a.target, a.mode, requestedTerm fields a.term,
                        s.now + a.wait * Config.unitMs⟩ fields hf hp ht hs (by simpa using ho)
                      (by simpa using hq)))).trans (Effects.moves ?_)
                    exact effects_answer _ l _ _ _ (by
                      simpa [State.leaveFree, State.setWaitQueue] using hr)

theorem checkHandle_held {s : State} {l : Link} {body : List Byte} {i : SlotIx} {h : HeldSlot}
    (hc : s.checkHandle l body = .held i h) :
    slotOf (byteAt body 0) = some i ∧ (s.slot i).generation = wordAt body 1 ∧
      (s.slot i).body = .held h ∧ h.owner = l := by
  unfold State.checkHandle State.checkSlot at hc
  (repeat' split at hc) <;> simp_all

theorem checkHandle_waiting {s : State} {l : Link} {body : List Byte} {i : SlotIx} {w : WaitingSlot}
    (hc : s.checkHandle l body = .waiting i w) :
    slotOf (byteAt body 0) = some i ∧ (s.slot i).generation = wordAt body 1 ∧
      (s.slot i).body = .waiting w ∧ w.owner = l := by
  unfold State.checkHandle State.checkSlot at hc
  (repeat' split at hc) <;> simp_all

theorem effects_serveRenew (s : State) (l : Link) (f : Frame) (hr : (s.link l).reserved = true) :
    Effects s (serveRenew l f s) := by
  unfold serveRenew
  split
  · exact effects_answer s l _ _ _ hr
  · split
    · exact effects_answer s l _ _ _ hr
    · exact effects_answer s l _ _ _ hr
    · rename_i i h hc
      have hb := (checkHandle_held hc).2.2.1
      unfold State.renewHeld
      dsimp only
      exact ((ReflTransGen.single (.kept i h _ hb rfl rfl rfl rfl)).trans
        (effects_warnIfDue _ i)).trans (effects_answer _ l _ _ _ (by simpa [State.setBody] using hr))

theorem effects_endWaiting (s : State) (i : SlotIx) (w : WaitingSlot)
    (hb : (s.slot i).body = .waiting w) : Effects s (s.endWaiting i w.target) :=
  (ReflTransGen.single (Effect.vacated i w.target (by rw [hb]; rfl)
    (by simp [hb, SlotBody.stateName]))).trans (effects_grantPassIf _ _ _)

theorem grantPassIf_link (s : State) (c : Bool) (t : EntryIx) (k : Link) :
    (s.grantPassIf c t).link k = s.link k := by
  unfold State.grantPassIf
  split <;> simp

theorem effects_serveRelease (s : State) (l : Link) (f : Frame) (hr : (s.link l).reserved = true) :
    Effects s (serveRelease l f s) := by
  unfold serveRelease
  split
  · exact effects_answer s l _ _ _ hr
  · rename_i i w hc
    exact (effects_endWaiting s i w (checkHandle_waiting hc).2.2.1).trans
      (effects_answer _ l _ _ _ (by simpa [State.endWaiting, grantPassIf_link] using hr))
  · rename_i i h hc
    have hb := (checkHandle_held hc).2.2.1
    split
    · exact effects_answer s l _ _ _ hr
    · exact ((effects_vacate_held s i h.target (by rw [hb]; rfl) (by rw [hb]; rfl)).trans
        (effects_grantPass _ _)).trans (effects_answer _ l _ _ _ (by simpa using hr))

theorem effects_changeToShared (s : State) (i : SlotIx) (h : HeldSlot)
    (hb : (s.slot i).body = .held h) :
    Effects s (s.changeToShared i h) ∧ ∀ k, (s.changeToShared i h).link k = s.link k := by
  unfold State.changeToShared
  split
  · exact ⟨(ReflTransGen.single (.downgraded i h hb)).trans (effects_grantPass _ _),
      by simp [State.setBody]⟩
  · split
    · exact ⟨(ReflTransGen.single (.upgradeLeft i h hb)).trans (effects_grantPass _ _),
        by simp [State.setBody]⟩
    · exact ⟨.refl, fun _ => rfl⟩

theorem effects_changeToExclusive (s : State) (l : Link) (i : SlotIx) (h : HeldSlot) (wait : Nat)
    (hb : (s.slot i).body = .held h) :
    Effects s (s.changeToExclusive l i h wait).2 ∧
      ∀ k, (s.changeToExclusive l i h wait).2.link k = s.link k := by
  unfold State.changeToExclusive
  extract_lets cls s'
  clear_value cls
  split
  · exact ⟨.refl, fun _ => rfl⟩
  · split
    · exact ⟨.refl, fun _ => rfl⟩
    · split
      · rename_i ho
        exact ⟨.single (.upgraded i h hb ho), by simp [State.setBody]⟩
      · split
        · exact ⟨.refl, fun _ => rfl⟩
        · rename_i ho
          split
          · exact ⟨.refl, fun _ => rfl⟩
          · rename_i hu
            split
            · exact ⟨.refl, fun _ => rfl⟩
            · exact ⟨.single (.upgradeAsked i h _ hb (by simpa using hu) (by simpa using ho)),
                fun _ => rfl⟩

theorem effects_serveChangeMode (s : State) (l : Link) (f : Frame)
    (hr : (s.link l).reserved = true) : Effects s (serveChangeMode l f s) := by
  unfold serveChangeMode
  split
  · exact effects_answer s l _ _ _ hr
  · split
    · exact effects_answer s l _ _ _ hr
    · split
      · exact effects_answer s l _ _ _ hr
      · exact effects_answer s l _ _ _ hr
      · rename_i i h hc
        have hb := (checkHandle_held hc).2.2.1
        split
        · exact effects_answer s l _ _ _ hr
        · split
          · obtain ⟨h1, h2⟩ := effects_changeToShared s i h hb
            exact h1.trans (effects_answer _ l _ _ _ (by rw [h2]; exact hr))
          · obtain ⟨h1, h2⟩ := effects_changeToExclusive s l i h (wordAt f.body 4) hb
            exact h1.trans (effects_answer _ l _ _ _ (by rw [h2]; exact hr))

theorem effects_serveRevoke (s : State) (l : Link) (f : Frame) (hr : (s.link l).reserved = true) :
    Effects s (serveRevoke l f s) := by
  unfold serveRevoke
  split
  · exact effects_answer s l _ _ _ hr
  · rename_i i _
    unfold State.revokeSlot
    split
    · split
      · exact effects_answer s l _ _ _ hr
      · exact effects_answer s l _ _ _ hr
      · exact effects_answer s l _ _ _ hr
      · rename_i h hb
        exact (effects_endLeaseAndPass s i h _ hb).trans
          (effects_answerAmong _ _ l _ _ _ (by rw [endLeaseAndPass_reserved]; exact hr))
    · exact effects_answer s l _ _ _ hr

/-! ### Transactions and notices -/

theorem freeRecord?_none {s : State} {p : PoolIx} (h : s.freeRecord? = some p) : s.record p = none := by
  have := List.find?_some h
  simpa using this

theorem roomFor_some {s : State} {b : BusIx} {p : PoolIx} (h : s.roomFor b = some p) :
    (s.busQueue b).length < 8 ∧ s.record p = none := by
  unfold State.roomFor at h
  split at h
  · exact ⟨by assumption, freeRecord?_none h⟩
  · cases h

/-- R70, R143: a record joins the queue of a bus that has room and is not in FAULT. -/
theorem effects_enqueue (s : State) (p : PoolIx) (r : Record) (l : Link) (hd : r.destination = some l)
    (hs : (s.session l).isOpen = true) (hq : (s.busQueue r.bus).length < 8)
    (hf : s.busFaulted r.bus = false) : Effects s (s.enqueue p r) := by
  have hf : (s.engine r.bus).state ≠ .fault := by simpa [State.busFaulted] using hf
  refine (effects_setRecord s p (some r) fun r' k h hk hc => ?_).trans
    (effects_setBusQueue _ r.bus _ fun ⟨h1, h2, h3⟩ => ⟨h1, ?_, fun h => absurd (by simpa using h) hf⟩)
  · cases h
    rw [hd] at hk
    cases hk
    cases hss : s.session l <;> simp_all [Session.isOpen, Session.isClosed]
  · simp; omega

theorem admitTransaction_ok {s : State} {kind : TxKind} {h : HeldSlot} {o c : Nat} {p : PoolIx}
    {f : TargetFields} (ha : s.admitTransaction kind h o c = .ok (p, f)) :
    (s.entry h.target).body.fields? = some f ∧ h.inFlight = none ∧ s.busFaulted f.busIx = false ∧
      (s.busQueue f.busIx).length < 8 ∧ s.record p = none := by
  unfold State.admitTransaction at ha
  split at ha
  · cases ha
  · split at ha
    · cases ha
    · rename_i hi
      split at ha
      · cases ha
      · rename_i g hg
        split at ha
        · cases ha
        · split at ha
          · cases ha
          · rename_i hb
            split at ha
            · cases ha
            · rename_i q hq
              cases ha
              exact ⟨hg, by simpa using hi, by simpa using hb, roomFor_some hq⟩

theorem effects_serveTransaction (kind : TxKind) (s : State) (l : Link) (f : Frame) (count : Nat)
    (data : List Byte) (hr : (s.link l).reserved = true) (hs : (s.session l).isOpen = true) :
    Effects s (serveTransaction kind l f count data s) := by
  unfold serveTransaction
  split
  · exact effects_answer s l _ _ _ hr
  · exact effects_answer s l _ _ _ hr
  · rename_i i h hc
    have hb := (checkHandle_held hc).2.2.1
    split
    · exact effects_answer s l _ _ _ hr
    · rename_i p fields ha
      obtain ⟨h1, h2, h3, h4, h5⟩ := admitTransaction_ok ha
      have h0 := effects_enqueue s p (newRecord kind l f.tag ⟨i, (s.slot i).generation⟩ fields
        (wordAt f.body 3) count data) l rfl hs h4 h3
      refine (h0.trans (.single (.kept i h { h with inFlight := some p } ?_ rfl rfl rfl rfl))).trans
        (effects_answerLater _ l hr)
      simpa [State.enqueue] using hb

theorem effects_serveCollect (s : State) (l : Link) (f : Frame) (hr : (s.link l).reserved = true)
    (hs : (s.session l).isOpen = true) : Effects s (serveCollect l f s) := by
  unfold serveCollect
  dsimp only
  split
  · exact effects_answer s l _ _ _ hr
  · unfold State.collectNotices
    dsimp only
    exact (ReflTransGen.single (.collected l _ hs)).trans
      (effects_answer _ l _ _ _ (by simpa using hr))

/-! ### The catalogue, the buses and the part -/

theorem effects_serveSetTarget (s : State) (l : Link) (f : Frame) (hr : (s.link l).reserved = true) :
    Effects s (serveSetTarget l f s) := by
  unfold serveSetTarget
  split
  · exact effects_answer s l _ _ _ hr
  · rename_i t _
    split
    · rename_i hv
      unfold State.writeTarget
      split
      · exact effects_answer s l _ _ _ hr
      · rename_i hc
        have hw := fun hu => (ReflTransGen.single (Effect.written t (fieldsAt f.body 1) hv
          (by simpa using hc) hu)).trans
          (effects_answer (s.makePresent t _) l f.tag .ok [] (by simpa [State.makePresent] using hr))
        split
        · rename_i hb
          exact hw (.inl hb)
        · exact effects_answer s l _ _ _ hr
        · split
          · exact effects_answer s l _ _ _ hr
          · rename_i hu
            exact hw (.inr (.inl (by simpa using hu)))
    · exact effects_answer s l _ _ _ hr

/-- R59: a slot of a dropped entry that no longer counts: FREE, ENDING, or on another entry. -/
def SlotBody.off (b : SlotBody) (t : EntryIx) : Prop :=
  b.target? = some t → b.stateName = .ending

theorem vacate_slot (s : State) (i : SlotIx) (t : EntryIx) (k : SlotIx) :
    (s.vacate i t).slot k = if i = k then ⟨(s.slot i).generation, .free⟩ else s.slot k := by
  simp only [State.vacate, State.leaveQueue, State.setWaitQueue_eq, State.setEntry_frame,
    State.freeSlot_eq, State.slot_setSlot]

theorem off_clearFlight (s : State) (h : Handle) (t : EntryIx) (i : SlotIx)
    (hi : (s.slot i).body.off t) : ((s.clearFlight h).slot i).body.off t := by
  unfold State.clearFlight
  split
  · split
    · rename_i hs hb
      rw [State.setBody_eq, State.slot_setSlot]
      split
      · subst_vars
        simpa [SlotBody.off, hb, SlotBody.target?, SlotBody.stateName] using hi
      · exact hi
    · rename_i e hb
      have h1 : ((s.freeSlot h.slot).slot i).body.off t := by
        rw [State.freeSlot_eq, State.slot_setSlot]
        split
        · intro h; cases h
        · exact hi
      have h2 := keepsAll_grantPass (s.freeSlot h.slot) e.target i
      have h3 : (((s.freeSlot h.slot).grantPass e.target).slot i).body.off t := fun ht => by
        have he := h1 (h2.target ▸ ht)
        rw [h2.settled (.inl he)]; exact he
      unfold State.freeEnding
      dsimp only
      split
      · split
        · exact h3
        · simpa using h1
      · exact h3
    · exact hi
  · exact hi

theorem off_withdraw (s : State) (p : PoolIx) (st : Status) (t : EntryIx) (i : SlotIx)
    (hi : (s.slot i).body.off t) : ((s.withdraw p st).slot i).body.off t := by
  unfold State.withdraw
  split
  · exact hi
  · rename_i r0 _
    unfold State.complete
    split
    · simpa using hi
    · rename_i r hr
      dsimp only
      split
      · rename_i h _
        obtain ⟨-, -, -, a, -⟩ := route_frame
          (((s.leaveBusQueue r0.bus p).setRecord p (some (r.completed st 0))).clearFlight h) p
          (r.completed st 0) ((s.leaveBusQueue r0.bus p).detached h.slot)
        rw [a i]
        exact off_clearFlight _ h t i (by simpa using hi)
      · obtain ⟨-, -, -, a, -⟩ := route_frame
          ((s.leaveBusQueue r0.bus p).setRecord p (some (r.completed st 0))) p (r.completed st 0) false
        rw [a i]
        simpa using hi

/-- R59: what dropping one slot does to every slot. -/
theorem dropSlot_off (t : EntryIx) (s : State) (i : SlotIx) :
    ((State.dropSlot t s i).slot i).body.off t ∧
      ∀ k, (s.slot k).body.off t → ((State.dropSlot t s i).slot k).body.off t := by
  have hvac : ∀ (s : State) u, ((s.vacate i u).slot i).body.off t ∧
      ∀ k, (s.slot k).body.off t → ((s.vacate i u).slot k).body.off t := by
    intro s u
    refine ⟨?_, fun k hk => ?_⟩
    · rw [vacate_slot, if_pos rfl]; intro h; cases h
    · rw [vacate_slot]
      split
      · intro h; cases h
      · exact hk
  unfold State.dropSlot
  split
  · rename_i w hb
    split
    · simpa using hvac s t
    · rename_i hw
      exact ⟨by simp [SlotBody.off, hb, SlotBody.target?, hw], fun _ h => h⟩
  · rename_i h hb
    split
    · unfold State.endLease
      dsimp only
      split
      · simpa using hvac s h.target
      · rename_i p _
        have := hvac (s.withdraw p dropEnd.status) h.target
        refine ⟨by simpa using this.1, fun k hk => ?_⟩
        have := this.2 k (off_withdraw s p dropEnd.status t k hk)
        simpa using this
      · rename_i p _
        refine ⟨?_, fun k hk => ?_⟩
        · simp [State.becomeEnding, State.setBody_eq, SlotBody.off, SlotBody.stateName]
        · simp only [State.becomeEnding, State.setBody_eq, State.offerNotice_frame,
            State.requestStop_frame, State.leaveQueue_frame, State.slot_setSlot]
          split
          · simp [SlotBody.off, SlotBody.stateName]
          · exact hk
    · rename_i hw
      exact ⟨by simp [SlotBody.off, hb, SlotBody.target?, hw], fun _ h => h⟩
  · rename_i hb
    exact ⟨by simp [SlotBody.off, hb, SlotBody.target?], fun _ h => h⟩
  · rename_i e hb
    exact ⟨by simp [SlotBody.off, hb, SlotBody.stateName], fun _ h => h⟩

/-- R59, R60: after its slots are dropped an entry has ENDING slots alone. -/
theorem dropSlots_off (t : EntryIx) (is : List SlotIx) (s : State) (i : SlotIx)
    (h : i ∈ is ∨ (s.slot i).body.off t) :
    ((is.foldl (State.dropSlot t) s).slot i).body.off t := by
  induction is generalizing s with
  | nil => simpa using h
  | cons q is ih =>
    refine ih _ ?_
    obtain ⟨a, b⟩ := dropSlot_off t s q
    rcases h with h | h
    · rcases List.mem_cons.mp h with rfl | h
      · exact .inr a
      · exact .inl h
    · exact .inr (b i h)

theorem effects_dropSlot (t : EntryIx) (s : State) (i : SlotIx) :
    Effects s (State.dropSlot t s i) := by
  unfold State.dropSlot
  split
  · rename_i w hb
    split
    · rename_i ht
      exact (ReflTransGen.single (.vacated i t (by rw [hb, ← ht]; rfl)
        (by simp [hb, SlotBody.stateName]))).trans (effects_offerNotice _ _ _)
    · exact .refl
  · rename_i h hb
    split
    · exact effects_endLease s i h _ hb
    · exact .refl
  · exact .refl
  · exact .refl

theorem clearFlight_entry_present (s : State) (h : Handle) (t : EntryIx) (f : TargetFields)
    (ht : (s.entry t).body = .present f) : ((s.clearFlight h).entry t).body = .present f := by
  unfold State.clearFlight
  split
  · split
    · simpa [State.setBody] using ht
    · rename_i e hb
      unfold State.freeEnding
      dsimp only
      split
      · rename_i g hg
        split
        · simpa [State.freeSlot, State.setBody] using ht
        · rw [State.entry_setEntry]
          split
          · subst_vars
            simp [State.freeSlot, State.setBody] at hg
            rw [ht] at hg; cases hg
          · simpa [State.freeSlot, State.setBody] using ht
      · simpa [State.freeSlot, State.setBody] using ht
    · exact ht
  · exact ht

theorem complete_entry_present (s : State) (p : PoolIx) (st : Status) (n : Nat) (t : EntryIx)
    (f : TargetFields) (ht : (s.entry t).body = .present f) :
    ((s.complete p st n).entry t).body = .present f := by
  unfold State.complete
  split
  · exact ht
  · rename_i r hr
    dsimp only
    split
    · rename_i h _
      obtain ⟨-, -, -, -, a, -⟩ := route_frame
        ((s.setRecord p (some (r.completed st n))).clearFlight h) p (r.completed st n)
        (s.detached h.slot)
      rw [a t]
      exact clearFlight_entry_present _ h t f (by simpa using ht)
    · obtain ⟨-, -, -, -, a, -⟩ := route_frame
        (s.setRecord p (some (r.completed st n))) p (r.completed st n) false
      rw [a t]
      simpa using ht

theorem vacate_entry (s : State) (i : SlotIx) (u t : EntryIx) :
    ((s.vacate i u).entry t).body = (s.entry t).body := by
  simp only [State.vacate, State.leaveQueue, State.setWaitQueue_eq, State.entry_setEntry,
    State.freeSlot_eq, State.setSlot_frame]
  split
  · subst_vars; rfl
  · rfl

theorem endLease_entry_present (s : State) (i : SlotIx) (h : HeldSlot) (e : LeaseEnd) (t : EntryIx)
    (f : TargetFields) (ht : (s.entry t).body = .present f) :
    ((s.endLease i h e).entry t).body = .present f := by
  unfold State.endLease
  dsimp only
  split
  · simpa [vacate_entry] using ht
  · rename_i p _
    simp only [State.offerNotice_frame, vacate_entry]
    unfold State.withdraw
    split
    · exact ht
    · exact complete_entry_present _ p _ _ t f (by simpa using ht)
  · simp only [State.becomeEnding, State.leaveQueue, State.setWaitQueue_eq, State.setBody_eq,
      State.offerNotice_frame, State.requestStop_frame, State.entry_setEntry, State.setSlot_frame]
    split
    · subst_vars; exact ht
    · exact ht

theorem dropSlot_frame (t : EntryIx) (s : State) (i : SlotIx) :
    (∀ k, ((State.dropSlot t s i).link k).reserved = (s.link k).reserved) ∧
      ∀ u f, (s.entry u).body = .present f → ((State.dropSlot t s i).entry u).body = .present f := by
  unfold State.dropSlot
  split
  · split
    · exact ⟨by simp, fun u f h => by simpa [vacate_entry] using h⟩
    · exact ⟨fun _ => rfl, fun _ _ h => h⟩
  · rename_i h hb
    split
    · exact ⟨(endLease_frame s i h dropEnd).2, fun u f hu => endLease_entry_present s i h _ u f hu⟩
    · exact ⟨fun _ => rfl, fun _ _ h => h⟩
  · exact ⟨fun _ => rfl, fun _ _ h => h⟩
  · exact ⟨fun _ => rfl, fun _ _ h => h⟩

theorem effects_dropPresent (s : State) (t : EntryIx) (f : TargetFields)
    (ht : (s.entry t).body = .present f) : Effects s (s.dropPresent t f) := by
  refine (effects_foldl _ (effects_dropSlot t) s slotIndices).tail (.retired t f ?_ fun i => ?_)
  · exact foldl_keep (P := fun s' => (s'.entry t).body = .present f) _
      (fun s' i h => (dropSlot_frame t s' i).2 t f h) _ _ ht
  · exact dropSlots_off t slotIndices s i (.inl (List.mem_finRange i))

theorem dropPresent_reserved (s : State) (t : EntryIx) (f : TargetFields) (k : Link) :
    ((s.dropPresent t f).link k).reserved = (s.link k).reserved := by
  unfold State.dropPresent State.retire
  simp only [State.setEntry_frame]
  exact foldl_keep (P := fun s' => (s'.link k).reserved = (s.link k).reserved) _
    (fun s' i h => ((dropSlot_frame t s' i).1 k).trans h) _ _ rfl

theorem effects_serveDropTarget (s : State) (l : Link) (f : Frame)
    (hr : (s.link l).reserved = true) : Effects s (serveDropTarget l f s) := by
  unfold serveDropTarget
  split
  · exact effects_answer s l _ _ _ hr
  · rename_i t _
    split
    · exact effects_answer s l _ _ _ hr
    · exact effects_answer s l _ _ _ hr
    · rename_i fields hb
      exact (effects_dropPresent s t fields hb).trans
        (effects_answerAmong _ _ l _ _ _ (by rw [dropPresent_reserved]; exact hr))

theorem effects_serveSetRights (s : State) (l : Link) (f : Frame)
    (hr : (s.link l).reserved = true) : Effects s (serveSetRights l f s) := by
  unfold serveSetRights
  split
  · exact effects_answer s l _ _ _ hr
  · rename_i k _
    split
    · rename_i hv
      exact (ReflTransGen.single (.rights k _ hv)).trans (effects_answer _ l _ _ _ (by simpa using hr))
    · exact effects_answer s l _ _ _ hr

theorem effects_serveBusRestore (s : State) (l : Link) (f : Frame)
    (hr : (s.link l).reserved = true) : Effects s (serveBusRestore l f s) := by
  unfold serveBusRestore
  split
  · exact effects_answer s l _ _ _ hr
  · rename_i b _
    split
    · exact (effects_setWorking s b { s.engine b with state := .recovering .restore, work := .restore }
        nofun fun _ => rfl).trans (effects_setLink _ l _ fun h => h)
    · exact effects_answer s l _ _ _ hr

theorem effects_serveSaveCatalogue (s : State) (l : Link) (f : Frame)
    (hr : (s.link l).reserved = true) (hs : (s.session l).isOpen = true) :
    Effects s (serveSaveCatalogue l f s) := by
  unfold serveSaveCatalogue
  split
  · exact effects_answer s l _ _ _ hr
  · split
    · exact effects_answer s l _ _ _ hr
    · rename_i hf
      split
      · exact effects_answer s l _ _ _ hr
      · rename_i p hp
        have h1 := roomFor_some hp
        have h0 := effects_enqueue (s.setImage s.buildImage) p
          (storeRecord l f.tag s.buildImage.length) l rfl (by simpa using hs) h1.1
          (by simpa [State.busFaulted, storeRecord] using hf)
        exact (((effects_setImage s _).trans h0).trans (effects_setSaveJob _ _)).trans
          (effects_answerLater _ l hr)

theorem effects_serveRestart (s : State) (l : Link) (f : Frame) (hr : (s.link l).reserved = true)
    (hp : s.part = .ready) : Effects s (serveRestart l f s) := by
  unfold serveRestart
  split
  · exact effects_answer s l _ _ _ hr
  · split
    · exact effects_answer s l _ _ _ hr
    · exact (effects_answer s l _ _ _ hr).tail (.restarting _ (by simpa using hp))

theorem effects_serveUnlisted (s : State) (l : Link) : Effects s (s.serveUnlisted l) := by
  unfold State.serveUnlisted
  split
  · exact .refl
  · rename_i f s' ht
    obtain ⟨-, rest, ho, rfl⟩ := takeFrame_eq ht
    exact (effects_taking s l ho).trans
      (effects_answer _ l _ _ _ (by simp [State.taking, LinkUnit.taken]))

/-! ### Timers, links and start-up -/

theorem effects_termExpires (s : State) (i : SlotIx) : Effects s (s.termExpires i) := by
  unfold State.termExpires
  split
  · rename_i h hb
    exact (effects_advanceTo s _).trans (effects_endLeaseAndPass _ i h _ (by simpa using hb))
  · exact .refl

theorem effects_warningFallsDue (s : State) (i : SlotIx) : Effects s (s.warningFallsDue i) := by
  unfold State.warningFallsDue
  split
  · split
    · exact (effects_advanceTo s _).trans (effects_warnIfDue _ i)
    · exact .refl
  · exact .refl

theorem effects_waitExpires (s : State) (i : SlotIx) : Effects s (s.waitExpires i) := by
  unfold State.waitExpires
  split
  · rename_i w hb
    dsimp only
    refine (((effects_advanceTo s w.waitDeadline).trans (.single (.vacated i w.target ?_ ?_))).trans
      (effects_offerNotice _ _ _)).trans (effects_grantPassIf _ _ _)
    · simp [hb, SlotBody.target?]
    · simp [hb, SlotBody.stateName]
  · exact .refl

theorem effects_upgradeExpires (s : State) (i : SlotIx) : Effects s (s.upgradeExpires i) := by
  unfold State.upgradeExpires
  split
  · rename_i h hb
    split
    · rename_i d _
      dsimp only
      exact (((effects_advanceTo s d).trans (.single (.upgradeLeft i h (by simpa using hb)))).trans
        (effects_offerNotice _ _ _)).trans (effects_grantPass _ _)
    · exact .refl
  · exact .refl

theorem effects_graceExpires (s : State) (l : Link) : Effects s (s.graceExpires l) := by
  unfold State.graceExpires
  split
  · exact (effects_advanceTo s _).trans (effects_teardown _ l)
  · exact .refl

theorem tearHoldings_restart (s : State) (l : Link) : (s.teardown l).restart = s.restart := by
  have : (s.tearHoldings l).restart = s.restart := by
    refine tearHoldings_keep (P := fun s' => s'.restart = s.restart) s l (by simp) ?_ ?_ ?_
    · intro s' p h
      rw [← h]
      unfold State.tearRecord
      split
      · rfl
      · split
        · split
          · simp
          · simp
          · split
            · simp
            · unfold State.discardQueued
              dsimp only
              split
              · unfold State.dropFlight
                split
                · split <;> simp [State.setBody]
                · simp
              · simp
        · rfl
    · intro s' i h
      rw [← h]
      unfold State.tearSlot
      split
      · rfl
      · split <;> simp
      · split
        · split <;> simp [State.becomeEnding, State.setBody]
        · rfl
      · split <;> simp [State.setBody]
    · intro s' t h
      simpa using h
  simp [State.teardown, this]

theorem effects_restartTears (s : State) (l : Link) (lines : LineLevels) :
    Effects s (s.restartTears l lines) := by
  unfold State.restartTears
  split
  · rename_i job hj
    split
    · dsimp only
      split
      · exact (ReflTransGen.single (.tearing job _ hj)).trans (effects_checkDrain _ lines)
      · exact ((effects_teardown s l).trans (.single (.tearing job _
          (by rw [tearHoldings_restart]; exact hj)))).trans (effects_checkDrain _ lines)
    · exact .refl
  · exact .refl

theorem effects_breakFound (s : State) (l : Link) : Effects s (s.breakFound l) := by
  unfold State.breakFound
  split
  · exact effects_linkDown s l
  · exact effects_setLink s l _ fun h => h

theorem effects_idleFound (s : State) (l : Link) : Effects s (s.idleFound l) := by
  unfold State.idleFound
  split
  · exact .refl
  · dsimp only
    refine (effects_advanceTo s _).trans (effects_setLink _ l _ fun h => ?_)
    obtain ⟨h1, h2, h3, h4, h5, h6, h7, h8, h9⟩ := h
    exact ⟨h1, h2, h3, h4, h5, h6, h7, h8, nofun⟩

theorem effects_framerRejects (s : State) (l : Link) (reason : RejectReason)
    (hup : (s.link l).Lawful (s.session l) → (s.link l).line = .up) :
    Effects s (s.framerRejects l reason) := by
  refine effects_givePlace s l _ fun h => ⟨?_, hup h⟩
  have hu := hup h
  obtain ⟨h1, h2, h3, h4, h5, h6, h7, h8, h9⟩ := h
  refine ⟨h1, h2, h3, h4, h5, h6, ?_, rfl, fun hd => by
    rw [show (s.link l).line = .down from hd] at hu; cases hu⟩
  simp only [raiseReject]
  split
  · rfl
  · rename_i c first hc
    rw [hc] at h7
    simp only [rejectLawful, decide_eq_true_eq] at h7 ⊢
    omega

theorem effects_setFramer (s : State) (l : Link) (x : Framer) (hup : (s.link l).line = .up)
    (hx : (s.link l).framer.lawful = true → x.lawful = true) : Effects s (s.setFramer l x) :=
  effects_setLink s l _ fun ⟨h1, h2, h3, h4, h5, h6, h7, h8, _⟩ =>
    ⟨h1, h2, h3, h4, h5, h6, h7, hx h8, fun hd => by
      rw [show (s.link l).line = .down from hd] at hup; cases hup⟩

theorem effects_frameEnds (s : State) (l : Link) (len : Nat) (chars : List Byte)
    (hup : (s.link l).line = .up) (hlen : (s.link l).framer.lawful = true → len ≤ 80) :
    Effects s (s.frameEnds l len chars) := by
  unfold State.frameEnds
  dsimp only
  split
  · exact effects_framerRejects s l _ fun _ => hup
  · split
    · rename_i hq
      refine effects_setLink s l _ fun ⟨h1, h2, h3, h4, h5, h6, h7, h8, h9⟩ => ?_
      have hq : (s.link l).requestQueue.length < 4 := hq
      refine ⟨?_, fun h => ?_, fun h => ?_, fun g hg => ?_, ⟨h5.1, by simp [LinkUnit.joined]⟩, h6, h7, rfl, fun hd => by
        rw [show (s.link l).line = .down from hd] at hup; cases hup⟩
      · simp [LinkUnit.joined]; omega
      · simp only [LinkUnit.joined, List.length_append, List.length_singleton] at h ⊢
        by_cases h3' : 3 ≤ (s.link l).requestQueue.length
        · simp [h2 h3']
        · have : (s.link l).requestQueue.length = 2 := by omega
          simp [this]
      · simp only [LinkUnit.joined, List.length_append, List.length_singleton] at h ⊢
        have h0 : (s.link l).requestQueue.length = 0 := by omega
        simp [h0, h3 (by omega)]
      · rcases List.mem_append.mp hg with hg | hg
        · exact h4 g hg
        · rw [List.mem_singleton.mp hg]
          have := hlen h8
          simp; omega
    · exact effects_framerRejects s l _ fun _ => hup

theorem effects_charReceived (s : State) (l : Link) (c : Byte) : Effects s (s.charReceived l c) := by
  unfold State.charReceived
  split
  · rename_i hup
    unfold State.framerTakes
    split
    · split
      · exact effects_setFramer s l _ hup fun _ => rfl
      · exact .refl
    · split
      · exact effects_framerRejects s l _ fun _ => hup
      · refine effects_setFramer s l _ hup fun _ => ?_
        simp [Framer.lawful]; omega
    · rename_i len got gap hf
      split
      · refine effects_setFramer s l _ hup fun h => ?_
        rw [hf] at h
        simp [Framer.lawful] at h ⊢; omega
      · refine effects_frameEnds s l len _ hup fun h => ?_
        rw [hf] at h
        simp [Framer.lawful] at h; omega
  · exact .refl

theorem effects_badCharacter (s : State) (l : Link) : Effects s (s.badCharacter l) := by
  unfold State.badCharacter
  split
  · exact .refl
  · exact .refl
  · rename_i hup _; exact effects_framerRejects s l _ fun _ => hup
  · rename_i hup _; exact effects_framerRejects s l _ fun _ => hup

theorem effects_transmitStarts (s : State) (l : Link) (h : Bool) :
    Effects s (s.transmitStarts l h) := by
  unfold State.transmitStarts
  dsimp only
  split
  · rename_i hu
    split
    · rename_i r rest hq
      refine effects_setLink s l _ fun ⟨h1, h2, h3, h4, h5, h6, h7, h8, h9⟩ =>
        ⟨h1, h2, h3, h4, h5, fun _ => by simp [hq], h7, h8, fun hd => by
          rw [show (s.link l).line = .down from hd] at hu; cases hu.1⟩
    · exact .refl
  · exact .refl

theorem effects_gapExpires (s : State) (l : Link) : Effects s (s.gapExpires l) := by
  have h0 : ∀ g, (s.link l).framer ≠ .hunt →
      Effects s ((s.advanceTo g).framerRejects l .gap) := fun g hf =>
    (effects_advanceTo s g).trans (effects_framerRejects _ l _ fun ⟨_, _, _, _, _, _, _, _, h9⟩ => by
      cases hd : (s.link l).line
      · exact absurd (h9 hd).1 hf
      · exact hd)
  unfold State.gapExpires
  split
  · exact .refl
  · rename_i g hf
    exact h0 g (by rw [hf]; nofun)
  · rename_i len got g hf
    exact h0 g (by rw [hf]; nofun)

theorem effects_frameSent (s : State) (l : Link) : Effects s (s.frameSent l) := by
  unfold State.frameSent
  dsimp only
  split
  · rename_i hs
    refine effects_placeFreed s l _ fun ⟨h1, h2, h3, h4, h5, h6, h7, h8, h9⟩ => ?_
    have hup : (s.link l).line = .up := by
      cases hd : (s.link l).line
      · rw [(h9 hd).2.2.2.1] at hs; cases hs
      · rfl
    refine ⟨⟨h1, h2, h3, h4, ⟨?_, h5.2⟩, nofun, h7, h8, fun hd => ?_⟩, hup⟩
    · have := h5.1
      simp only [LinkUnit.placesTaken, List.length_drop] at this ⊢
      omega
    · rw [show (s.link l).line = .down from hd] at hup; cases hup
  · exact .refl

/-! ### The commands -/

theorem effects_serve (s : State) (l : Link) (r : Request) (owner : Link → Frame → State → State)
    (h : ∀ s f, (s.link l).reserved = true → s.part = .ready → r.bodyOk f.body = true →
      ((s.session l).isOpen = true ∨ r = .hello) → Effects s (owner l f s)) :
    Moves s (s.serve l r owner) :=
  moves_serve s l r owner fun s f h1 h2 h3 h4 => (h s f h1 h2 h3 h4).moves

/-- Every command but COLD_START answers a next state, by a chain of moves. -/
theorem moves_exec (c : Instr) (hc : isColdStart c = false) (s : State) :
    ∃ t, exec c s = .next t ∧ Moves s t := by
  cases c with
  | hello l => exact ⟨_, rfl, effects_serve s l _ _ fun s f h _ _ _ => effects_serveHello s l f h⟩
  | bye l => exact ⟨_, rfl, effects_serve s l _ _ fun s f h _ _ _ => effects_serveBye s l f h⟩
  | openLease l =>
    exact ⟨_, rfl, moves_serve s l _ _ fun s f h hp _ ho =>
      moves_serveOpen s l f h hp (ho.resolve_right nofun)⟩
  | renew l => exact ⟨_, rfl, effects_serve s l _ _ fun s f h _ _ _ => effects_serveRenew s l f h⟩
  | release l => exact ⟨_, rfl, effects_serve s l _ _ fun s f h _ _ _ => effects_serveRelease s l f h⟩
  | changeMode l =>
    exact ⟨_, rfl, effects_serve s l _ _ fun s f h _ _ _ => effects_serveChangeMode s l f h⟩
  | read l =>
    exact ⟨_, rfl, effects_serve s l _ _ fun s f h _ _ ho =>
      effects_serveTransaction .read s l f _ _ h (ho.resolve_right nofun)⟩
  | write l =>
    exact ⟨_, rfl, effects_serve s l _ _ fun s f h _ _ ho =>
      effects_serveTransaction .write s l f _ _ h (ho.resolve_right nofun)⟩
  | collect l =>
    exact ⟨_, rfl, effects_serve s l _ _ fun s f h _ _ ho =>
      effects_serveCollect s l f h (ho.resolve_right nofun)⟩
  | queryTarget l =>
    exact ⟨_, rfl, effects_serve s l _ _ fun s f h _ _ _ => by
      unfold serveQueryTarget
      split <;> exact effects_answer s l _ _ _ h⟩
  | querySlot l =>
    exact ⟨_, rfl, effects_serve s l _ _ fun s f h _ _ _ => by
      unfold serveQuerySlot
      split <;> exact effects_answer s l _ _ _ h⟩
  | queryBus l =>
    exact ⟨_, rfl, effects_serve s l _ _ fun s f h _ _ _ => by
      unfold serveQueryBus
      split <;> exact effects_answer s l _ _ _ h⟩
  | queryLink l =>
    exact ⟨_, rfl, effects_serve s l _ _ fun s f h _ _ _ => by
      unfold serveQueryLink
      split <;> exact effects_answer s l _ _ _ h⟩
  | queryStart l =>
    exact ⟨_, rfl, effects_serve s l _ _ fun s f h _ _ _ => effects_answer s l _ _ _ h⟩
  | setTarget l =>
    exact ⟨_, rfl, effects_serve s l _ _ fun s f h _ _ _ => effects_serveSetTarget s l f h⟩
  | dropTarget l =>
    exact ⟨_, rfl, effects_serve s l _ _ fun s f h _ _ _ => effects_serveDropTarget s l f h⟩
  | setRights l =>
    exact ⟨_, rfl, effects_serve s l _ _ fun s f h _ _ _ => effects_serveSetRights s l f h⟩
  | revoke l => exact ⟨_, rfl, effects_serve s l _ _ fun s f h _ _ _ => effects_serveRevoke s l f h⟩
  | busRestore l =>
    exact ⟨_, rfl, effects_serve s l _ _ fun s f h _ _ _ => effects_serveBusRestore s l f h⟩
  | saveCatalogue l =>
    exact ⟨_, rfl, effects_serve s l _ _ fun s f h _ _ ho =>
      effects_serveSaveCatalogue s l f h (ho.resolve_right nofun)⟩
  | restart l =>
    exact ⟨_, rfl, effects_serve s l _ _ fun s f h hp _ _ => effects_serveRestart s l f h hp⟩
  | termExpiry i => exact ⟨_, rfl, (effects_termExpires s i).moves⟩
  | lapseWarning i => exact ⟨_, rfl, (effects_warningFallsDue s i).moves⟩
  | waitExpiry i => exact ⟨_, rfl, (effects_waitExpires s i).moves⟩
  | upgradeWaitExpiry i => exact ⟨_, rfl, (effects_upgradeExpires s i).moves⟩
  | graceExpiry l => exact ⟨_, rfl, (effects_graceExpires s l).moves⟩
  | restartTeardown l lines => exact ⟨_, rfl, (effects_restartTears s l lines).moves⟩
  | coldStart => cases hc
  | lineBreak l => exact ⟨_, rfl, (effects_breakFound s l).moves⟩
  | linkUp l => exact ⟨_, rfl, (effects_idleFound s l).moves⟩
  | characterReceived l c => exact ⟨_, rfl, (effects_charReceived s l c).moves⟩
  | badCharacter l => exact ⟨_, rfl, (effects_badCharacter s l).moves⟩
  | gapTimerExpiry l => exact ⟨_, rfl, (effects_gapExpires s l).moves⟩
  | transmitFrameStart l h => exact ⟨_, rfl, (effects_transmitStarts s l h).moves⟩
  | frameSent l => exact ⟨_, rfl, (effects_frameSent s l).moves⟩
  | takeRecord b lines => exact ⟨_, rfl, (effects_takeWork s b lines).moves⟩
  | readOperationEnd b r lines => exact ⟨_, rfl, (effects_readOperationEnds s b r lines).moves⟩
  | writeSegmentEnd b r lines => exact ⟨_, rfl, (effects_writeSegmentEnds s b r lines).moves⟩
  | busyPollEnd b a lines => exact ⟨_, rfl, (effects_busyPollEnds s b a lines).moves⟩
  | addressRetryWaitExpiry b lines => exact ⟨_, rfl, (effects_retryWaitExpires s b lines).moves⟩
  | busyPollWaitExpiry b lines => exact ⟨_, rfl, (effects_pollWaitExpires s b lines).moves⟩
  | clockStretchFault b x => exact ⟨_, rfl, (effects_stretchFault s b x).moves⟩
  | lineCheckClockStuck b lines => exact ⟨_, rfl, (effects_clockStuck s b lines).moves⟩
  | recoveryEnd b r lines => exact ⟨_, rfl, (effects_recoveryEnds s b r lines).moves⟩
  | unlistedCodeRequest l => exact ⟨_, rfl, (effects_serveUnlisted s l).moves⟩

/-- A step on an empty queue answers a next state, by a chain of moves. -/
theorem moves_step_idle {s : State} (h : s.pending = []) : ∃ t, step s = .next t ∧ Moves s t :=
  ⟨s.idles, by rw [step, h], (effects_idles s).moves⟩

end Sys2Proof.Machine
end

