-- ==== Sys2Proof/Laws/Requests.lean ====
section
/-! SUPPORT. The intake, said once for every request: what taking a frame does when the request passes
the generic checks, when a check refuses it, and when there is no such frame. -/

namespace Sys2Proof.Machine

variable {s : State} {l : Link} {r : Request} {f : Frame} {rest : List Frame}

/-- A request that the intake admits is handed to its owner in the state that taking its frame leaves. -/
theorem serve_admits (h : s.Admits l r f rest) (owner : Link → Frame → State → State) :
    s.serve l r owner = owner l f (s.taking l rest) := by
  obtain ⟨⟨hi, hq⟩, hc, hp, hb, ho, hs⟩ := h
  have hg : (s.taking l rest).genericRefusal l r f = none := by
    simp only [State.genericRefusal, State.taking, State.setLink_frame, hp, hb]
    rcases ho with ho | rfl
    · by_cases hr : r.supervisor = true
      · simp [ho, hs hr]
      · simp [ho, hr]
    · simp [Request.supervisor]
  simp only [State.serve, State.takeFrame, hi, hq, hc, beq_self_eq_true, if_true]
  rw [show s.setLink l ((s.link l).taken rest) = s.taking l rest from rfl, hg]

/-- A request that fails a generic check is answered with its status. -/
theorem serve_refused (h : s.Offers l f rest) (hc : f.code = r.code) {st : Status}
    (hg : s.genericRefusal l r f = some st) (owner : Link → Frame → State → State) :
    s.serve l r owner = (s.taking l rest).answer l f.tag st [] := by
  have : (s.taking l rest).genericRefusal l r f = some st := by
    simpa [State.genericRefusal, State.taking] using hg
  simp only [State.serve, State.takeFrame, h.1, h.2, hc, beq_self_eq_true, if_true]
  rw [show s.setLink l ((s.link l).taken rest) = s.taking l rest from rfl, this]

/-- Where the intake may take no frame with the request's code, nothing happens. -/
theorem serve_nothing (h : s.intakeReady l = false ∨ (s.link l).requestQueue = [] ∨
      ∃ f rest, (s.link l).requestQueue = f :: rest ∧ f.code ≠ r.code)
    (owner : Link → Frame → State → State) : s.serve l r owner = s := by
  unfold State.serve State.takeFrame
  rcases h with h | h | ⟨f, rest, h, hc⟩
  · simp [h]
  · simp [h]
  · simp [h, hc]

/-- Taking a frame changes the link's unit alone. -/
@[simp] theorem State.taking_frame (s : State) (l : Link) (rest : List Frame) :
    (s.taking l rest).pending = s.pending ∧ (s.taking l rest).now = s.now ∧
    (s.taking l rest).supervisor = s.supervisor ∧ (s.taking l rest).part = s.part ∧
    (s.taking l rest).restart = s.restart ∧ (s.taking l rest).load = s.load ∧
    (s.taking l rest).report = s.report ∧ (s.taking l rest).imageBuffer = s.imageBuffer ∧
    (s.taking l rest).saveJob = s.saveJob ∧ (∀ i, (s.taking l rest).slot i = s.slot i) ∧
    (∀ t, (s.taking l rest).entry t = s.entry t) ∧
    (∀ k, (s.taking l rest).rightsOf k = s.rightsOf k) ∧
    (∀ p, (s.taking l rest).record p = s.record p) ∧
    (∀ k, (s.taking l rest).waitingDone k = s.waitingDone k) ∧
    (∀ b, (s.taking l rest).busQueue b = s.busQueue b) ∧
    (∀ b, (s.taking l rest).engine b = s.engine b) ∧
    (∀ k, (s.taking l rest).session k = s.session k) ∧
    (∀ k, (s.taking l rest).notice k = s.notice k) :=
  ⟨rfl, rfl, rfl, rfl, rfl, rfl, rfl, rfl, rfl, fun _ => rfl, fun _ => rfl, fun _ => rfl, fun _ => rfl,
    fun _ => rfl, fun _ => rfl, fun _ => rfl, fun _ => rfl, fun _ => rfl⟩

/-- The outbound queue is as it was before the frame was taken, and a place is kept for the answer. -/
@[simp] theorem State.taking_link (s : State) (l : Link) (rest : List Frame) :
    (s.taking l rest).link l = (s.link l).taken rest := by
  simp [State.taking]

end Sys2Proof.Machine
end

