-- ==== Sys2Proof/Laws/Signals.lean ====
section
/-! SUPPORT. The course of an attempt up to a stretch, said once: what had come of it, by the elements given
whole and the readings of the next one (`runToStretch_iff`). -/

namespace Sys2Proof.Machine

/-- A course with every byte sent acknowledged takes the readings of all its elements. -/
theorem runElements_readings {elements : List BusElement} {levels : List Bool} {run : BusRun}
    (h : runElements elements levels = some run) (hr : run.refused = false) :
    levels.length = (elements.map BusElement.readCount).sum := by
  induction elements, levels using runElements.induct generalizing run with
  | case1 => rfl
  | case2 => simp [runElements] at h
  | case3 => simp [runElements] at h
  | case4 _ _ _ ih | case9 _ _ ih | case10 _ _ ih | case11 _ _ ih | case12 _ _ ih | case13 _ _ ih =>
    simp only [runElements, Option.map_eq_some_iff] at h
    obtain ⟨x, hx, rfl⟩ := h
    have := ih hx hr
    simp [BusElement.readCount, this] <;> omega
  | case5 =>
    simp [runElements] at h
    simp [← h] at hr
  | case6 _ _ _ hl => simp [runElements, hl] at h
  | case7 _ _ _ hl => simp [runElements, hl] at h
  | case8 _ _ _ hl ih =>
    simp only [runElements, if_neg hl, Option.map_eq_some_iff] at h
    obtain ⟨x, hx, rfl⟩ := h
    have := ih hx hr
    simp only [List.length_drop] at this
    simp only [List.map_cons, List.sum_cons, BusElement.readCount]
    omega

/-- What the readings of the element cut off add to the course before it. -/
theorem stretchedIn_eq_some {whole run : BusRun} {e : BusElement} {bits : List Bool} :
    whole.stretchedIn e bits = some run ↔
      (bits = [] ∨ (∃ k, e = .receive k) ∧ bits.length < 8) ∧ run = whole ∨
      (∃ k, e = .receive k) ∧ bits.length = 8 ∧
        run = { whole with data := whole.data ++ [byteOfBits bits] } ∨
      (∃ x, e = .send x) ∧ bits = [true] ∧
        run = { whole with given := whole.given ++ [e], refused := true } := by
  unfold BusRun.stretchedIn
  split
  · cases e <;> simp [eq_comm]
  · simp [eq_comm]
  · rename_i hb
    have hb : bits ≠ [] := hb
    by_cases h8 : bits.length < 8
    · simp [h8, h8.ne, eq_comm]
    · by_cases h : bits.length = 8
      · simp [h, hb, eq_comm]
      · simp [h8, h, hb]
  · rename_i h1 h2 h3
    cases e <;> simp_all

/-- R92: the meaning's reading of a stretch point is that of the statements. -/
theorem runToStretch_iff {elements : List BusElement} {point : StretchPoint} {run : BusRun} :
    runToStretch elements point = some run ↔ StretchedAt elements point run := by
  unfold runToStretch
  constructor
  · intro h
    dsimp only at h
    split at h
    · rename_i e whole he hw
      split at h
      · cases h
      · rename_i hr
        obtain ⟨hlt, rfl⟩ := List.getElem?_eq_some_iff.mp he
        exact ⟨elements.take point.whole, _, elements.drop (point.whole + 1), _, _, whole,
          by simp, by simp; omega, (List.take_append_drop _ _).symm, hw, by simpa using hr,
          stretchedIn_eq_some.mp h⟩
    · cases h
  · rintro ⟨front, e, back, levels, bits, whole, rfl, hw, hread, hrun, hr, h⟩
    have hl := runElements_readings hrun hr
    simp [hw, hread, ← hl, hrun, hr, stretchedIn_eq_some.mpr h]

end Sys2Proof.Machine
end

