-- ==== Sys2Proof/Tests/Slice0.lean ====
section
/-! SUPPORT. Tests of the model, each one step on a small state, with results worked out from the spec;
and a witness for every statement of Certificates/Slice0/Obligations.lean that has hypotheses. -/

namespace Sys2Proof.Tests

open Sys2Proof Sys2Proof.Machine

set_option Elab.async false

/-! ### Well-formedness and the opcode table -/

theorem test_wf_refuses_empty_read : (Instr.readOperationEnd 0 [] .bothHigh).wf = false := by decide
theorem test_wf_refuses_long_read :
    (Instr.readOperationEnd 0 (List.replicate 517 true) .bothHigh).wf = false := by decide +kernel
theorem test_wf_refuses_long_segment :
    (Instr.writeSegmentEnd 1 (List.replicate 68 false) .bothHigh).wf = false := by decide
theorem test_wf_refuses_long_poll : (Instr.busyPollEnd 0 [true, true] .bothHigh).wf = false := by decide
theorem test_wf_refuses_late_stretch : (Instr.clockStretchFault 0 ⟨71, []⟩).wf = false ∧
    (Instr.clockStretchFault 0 ⟨70, List.replicate 517 false⟩).wf = false := by decide +kernel
theorem test_wf_refuses_long_recovery :
    (Instr.recoveryEnd 0 (List.replicate 12 .dataLow) .bothHigh).wf = false := by decide
theorem test_wf_accepts :
    (Instr.readOperationEnd 0 (List.replicate 516 false) .bothHigh).wf = true ∧
      (Instr.writeSegmentEnd 1 (List.replicate 67 false) .bothHigh).wf = true ∧
      (Instr.clockStretchFault 0 ⟨70, List.replicate 516 false⟩).wf = true ∧
      (Instr.recoveryEnd 0 (List.replicate 10 .dataLow) .bothHigh).wf = true := by decide +kernel
/-- No row of the opcode table gives bits. -/
theorem test_decode_none : decodeTableWord 8 0x10 = none := rfl

/-! ### Formats -/

/-- The check value of CRC-16 with polynomial 0x1021 and initial value 0xFFFF over "123456789". -/
theorem test_crc : crc16 [0x31, 0x32, 0x33, 0x34, 0x35, 0x36, 0x37, 0x38, 0x39] = 0x29B1#16 := by
  decide +kernel

/-! ### Signals on the bus (R90, R91) -/

/-- A byte sent, 0xA0: its bits most significant first, then the acknowledgement read. -/
theorem test_send_steps : (BusElement.send 0xA0).steps =
    [.data true, .clock true, .clock false, .data false, .clock true, .clock false,
      .data true, .clock true, .clock false, .data false, .clock true, .clock false,
      .data false, .clock true, .clock false, .data false, .clock true, .clock false,
      .data false, .clock true, .clock false, .data false, .clock true, .clock false,
      .data true, .clock true, .readData, .clock false] := by decide
/-- One byte read at offset width 0: 0x93 after an acknowledged address byte. -/
theorem test_read_run : (runElements [.start, .send 0x41, .receive false, .stop]
    [false, true, false, false, true, false, false, true, true]).map (·.data) = some [0x93] := by decide
/-- The second byte of a segment refused: a stop follows it at once. -/
theorem test_refused_run : runElements [.start, .send 0xA0, .send 4, .send 5, .stop]
    [false, true] = some ⟨[.start, .send 0xA0, .send 4, .stop], 1, true, []⟩ := by decide
/-- The worked sequence of 5.9: the data line is high after the third pulse. -/
theorem test_recovery_pulses : runRecovery [.dataLow, .dataLow, .dataLow, .bothHigh, .bothHigh] =
    some ⟨[.release, .pulse, .pulse, .pulse, .stop], .success⟩ := by decide
theorem test_recovery_ninth : (runRecovery (List.replicate 10 .dataLow)).map (·.result) =
    some .dataFailed := by decide

/-! ### The small state of the tests -/

/-- A memory on B0 at 0x50: 400 kHz, offset width 1, page 8, capacity 256, poll 20, retries 3, class 0,
default term 100, maximum 1000, warn time 50 (units of 10 ms), QLIM 4. -/
def memory : TargetFields := ⟨0, 1, 0x50, 1, 3, 255, 20, 3, 0, 100, 1000, 50, 4⟩

/-- A hub on B1 at 0x20 with no offset and no lapse warning: class 1, QLIM 2. -/
def hub : TargetFields := ⟨1, 0, 0x20, 0, 0, 0, 0, 2, 1, 100, 1000, 0, 2⟩

/-- A record of a transaction of link 0. -/
def work (kind : TxKind) (state : TxState) (h : Option Handle) (b : BusIx) : Record where
  kind := kind
  state := state
  link := 0
  tag := 0x2C
  destination := some 0
  handle := h
  bus := b
  snapshot := memory.snapshot
  offset := 44
  count := 8
  data := if kind = .write then List.replicate 8 0x5A else []
  nextStart := 44
  bytesDone := 0
  stopRequested := false
  status := none
  phase := if kind = .store then some .invalidate else none

/-- The first segment of a WRITE of `work` on the memory: offsets 44 to 47, to the end of their page. -/
def firstSegment : BusPlan :=
  ⟨1, [.start, .send 0xA0, .send 44, .send 0x5A, .send 0x5A, .send 0x5A, .send 0x5A, .stop]⟩

/-- L0, L2 and L3 OPEN, L1 SUSPENDED, L3 the supervisor. T0: S0 HELD EXCLUSIVE by L0, S2 of L3 waits.
T1: S3 of L0 (with a READ QUEUED on B1), S4 of L3 (upgrade pending) and S5 of L1 HELD SHARED.
T2: RETIRING, S1 of L0 ENDING with a WRITE ACTIVE on B0. T3: PRESENT, not in use. -/
def lab : State :=
  let links := Vector.replicate 4 { coldLink 0 with line := .up }
  let s := { State.reset with
    now := 1000, supervisor := some 3, part := .ready, load := none, links := links
    report := ⟨.loaded, 4, 4, 0, 0, .none⟩
    sessions := #v[.opened 7, .suspended 8 6000, .opened 11, .opened 9]
    rights := Vector.replicate 4 ⟨0xFF, 0xFF, 8, 50⟩
    pool := (Vector.replicate 16 none).set 1
      (some { work .write .active (some ⟨1, 1⟩) 0 with stopRequested := true }) |>.set 2
        (some (work .read .queued (some ⟨3, 4⟩) 1))
    busQueues := #v[[], [2]]
    engines := #v[⟨.active (.onBus .operation firstSegment), .none, .record 1, 0, ⟨0, []⟩⟩,
      coldEngine] }
  let s := (s.setEntry 0 ⟨.present memory, [2]⟩).setEntry 1 ⟨.present hub, [4]⟩
  let s := s.setEntry 2 ⟨.retiring { memory with address := 0x51 }, []⟩
  let s := s.setEntry 3 ⟨.present { memory with address := 0x52 }, []⟩
  let s := s.setSlot 0 ⟨5, .held ⟨0, 0, .exclusive, 5000, 6000, none, false, none⟩⟩
  let s := s.setSlot 1 ⟨1, .ending ⟨some 0, 2, .exclusive, some 1, .lapsed⟩⟩
  let s := s.setSlot 2 ⟨3, .waiting ⟨3, 0, .shared, 4000, 2000⟩⟩
  let s := s.setSlot 3 ⟨4, .held ⟨0, 1, .shared, 5000, 6000, none, false, some 2⟩⟩
  let s := s.setSlot 4 ⟨2, .held ⟨3, 1, .shared, 5000, 6000, some 3000, false, none⟩⟩
  s.setSlot 5 ⟨6, .held ⟨1, 1, .shared, 5000, 6000, none, false, none⟩⟩

/-- A request frame with tag 0x21. -/
def frame (r : Request) (body : List Byte) : Frame := ⟨0x21, r.code, body⟩

/-- A request stands at the intake of a link. -/
def asks (s : State) (l : Link) (r : Request) (body : List Byte) : State :=
  s.setLink l { s.link l with requestQueue := [frame r body] }

/-- The state after a command. -/
def ran (c : Instr) (s : State) : State :=
  match exec c s with
  | .next t => t
  | .fault _ => s
  | .refused _ => s

/-- The answers to a request at a link of `lab`: status and body of each frame in its outbound queue. -/
def answers (l : Link) (r : Request) (body : List Byte) : List (Status × List Byte) :=
  ((ran (r.command l) (asks lab l r body)).link l).outbound.map fun x => (x.status, x.body)

/-- The answer to a request is this alone. -/
abbrev Answers (l : Link) (r : Request) (body : List Byte) (status : Status) (answer : List Byte) :
    Prop := answers l r body = [(status, answer)]

/-- The three link-side commands whose meanings tests chain: `lab` after one of its events. -/
def later (cs : List Instr) (s : State) : State := cs.foldl (fun t c => ran c t) s

/-! ### Sessions, leases and queries -/

theorem test_hello_same_key : Answers 0 .hello [0, 7] .ok [0, 3, 0] := by decide +kernel
theorem test_hello_resumes : Answers 1 .hello [0, 8] .ok [1, 1, 0] := by decide +kernel
theorem test_bye : Answers 2 .bye [] .ok [] ∧ (ran (.bye 2) (asks lab 2 .bye [])).session 2 = .closed := by
  decide +kernel
theorem test_open_granted : Answers 2 .openLease [3, 0, 0, 0, 0, 0] .ok [6, 0, 2, 0, 100] := by
  decide +kernel
theorem test_open_waits : Answers 2 .openLease [0, 0, 0, 0, 0, 10] .waiting [6, 0, 2] := by decide +kernel
theorem test_renew : Answers 0 .renew [0, 0, 5, 0xEA, 0x60] .ok [0x03, 0xE8] := by decide +kernel
theorem test_release : Answers 0 .release [0, 0, 5] .ok [] ∧
    ((ran (.release 0) (asks lab 0 .release [0, 0, 5])).slot 2).body =
      .held ⟨3, 0, .shared, 4000, 5000, none, false, none⟩ := by decide +kernel
theorem test_release_inflight : Answers 0 .release [3, 0, 4] .inflight [] := by decide +kernel
theorem test_change_mode_shared : Answers 0 .changeMode [0, 0, 5, 0, 0, 0] .ok [] := by decide +kernel
theorem test_change_mode_again : Answers 3 .changeMode [4, 0, 2, 1, 0, 9] .waiting [] := by decide +kernel
theorem test_read : (ran (.read 0) (asks lab 0 .read [0, 0, 5, 0, 192, 64])).busQueue 0 = [0] := by
  decide +kernel
theorem test_write_shared : Answers 0 .write [3, 0, 4, 0, 0, 1] .mode [] := by decide +kernel
theorem test_collect : Answers 0 .collect [1] .ok [0, 0, 0] := by decide +kernel
theorem test_query_target : Answers 0 .queryTarget [1] .ok
    [1, 0x10, 0x20, 0, 0, 0, 0, 0x21, 0, 100, 3, 0xE8, 0, 0, 2, 3, 0xFF, 1, 4] := by decide +kernel
theorem test_query_slot : Answers 3 .querySlot [2] .ok
    [1, 0, 3, 3, 0, 0, 0x01, 0x90, 0, 0, 0, 100, 0, 0] := by decide +kernel
theorem test_query_bus : Answers 3 .queryBus [0] .ok [1, 0, 0, 1, 0, 0x2C] := by decide +kernel
theorem test_query_link : Answers 3 .queryLink [1] .ok [1, 2, 0, 8, 0x01, 0xF4, 1, 0, 0, 0, 0] := by
  decide +kernel
theorem test_query_start : Answers 3 .queryStart [] .ok [0, 4, 4, 0, 0, 0, 0] := by decide +kernel

/-! ### The supervisor -/

theorem test_set_target : Answers 3 .setTarget (9 :: 0x11 :: (fieldBytes memory).tail) .ok [] := by
  decide +kernel
theorem test_set_target_clash : Answers 3 .setTarget (9 :: fieldBytes memory) .clash [] := by
  decide +kernel
theorem test_drop_target : Answers 3 .dropTarget [0] .ok [2] ∧
    (ran (.dropTarget 3) (asks lab 3 .dropTarget [0])).entry 0 = ⟨.absent, []⟩ := by decide +kernel
theorem test_set_rights : (ran (.setRights 3) (asks lab 3 .setRights [1, 3, 1, 24, 0x17, 0x70])).rightsOf 1 =
    ⟨3, 1, 24, 6000⟩ := by decide +kernel
theorem test_set_rights_quota : Answers 3 .setRights [1, 3, 1, 25, 0, 0] .badreq [] := by decide +kernel
theorem test_revoke : Answers 3 .revoke [0, 0, 5] .ok [0] := by decide +kernel
theorem test_revoke_ending : Answers 3 .revoke [1, 0, 1] .ended [] := by decide +kernel
theorem test_bus_restore : Answers 3 .busRestore [0] .badstate [] := by decide +kernel
theorem test_save : (ran (.saveCatalogue 3) (asks lab 3 .saveCatalogue [])).imageBuffer.length = 100 := by
  decide +kernel
theorem test_restart : Answers 3 .restart [0] .ok [] ∧
    (ran (.restart 3) (asks lab 3 .restart [0])).part = .starting := by decide +kernel
theorem test_restart_teardown :
    ((ran (.restartTeardown 1 .bothHigh) (ran (.restart 3) (asks lab 3 .restart [0]))).restart) =
      some ⟨.keep, [0, 2, 3]⟩ := by decide +kernel
theorem test_unlisted : ((ran (.unlistedCodeRequest 0) (lab.setLink 0 { lab.link 0 with
    requestQueue := [⟨5, 0x99, []⟩] })).link 0).outbound = [⟨5, .badreq, []⟩] := by decide +kernel

/-! ### Timers and start-up -/

theorem test_term_expiry : ((ran (.termExpiry 0) lab).slot 0).body = .free ∧
    ((ran (.termExpiry 0) lab).slot 2).body = .held ⟨3, 0, .shared, 4000, 10000, none, false, none⟩ := by
  decide +kernel
theorem test_term_expiry_active : (ran (.termExpiry 0) (lab.setBody 0
    (.held ⟨0, 0, .exclusive, 5000, 6000, none, false, some 1⟩))).slot 0 =
      ⟨5, .ending ⟨some 0, 0, .exclusive, some 1, .lapsed⟩⟩ := by decide +kernel
theorem test_lapse_warning : ((ran (.lapseWarning 0) lab).notice 0) =
    ⟨[⟨.handle 0 5, .lapsing 50⟩], false, true⟩ := by decide +kernel
theorem test_wait_expiry : ((ran (.waitExpiry 2) lab).notice 3).queue =
    [⟨.handle 2 3, .waitEnded .expired false .shared⟩] := by decide +kernel
theorem test_upgrade_wait_expiry : (ran (.upgradeWaitExpiry 4) lab).entry 1 = ⟨.present hub, []⟩ := by
  decide +kernel
theorem test_grace_expiry : (ran (.graceExpiry 1) lab).session 1 = .closed ∧
    (ran (.graceExpiry 1) lab).slot 5 = ⟨6, .free⟩ := by decide +kernel
theorem test_cold_start : (ran (.coldStart true 2 1 .bothHigh) lab).rightsOf 2 = ⟨0xFF, 0xFF, 8, 0⟩ ∧
    (ran (.coldStart true 2 1 .bothHigh) lab).slot 0 = ⟨1, .free⟩ := by decide +kernel

/-! ### Links -/

theorem test_break : (ran (.lineBreak 0) lab).session 0 = .suspended 7 1500 := by decide +kernel
theorem test_link_up : (later [.lineBreak 0, .linkUp 0] lab).now = 1010 := by decide +kernel
theorem test_start_character : ((ran (.characterReceived 0 0xB5) lab).link 0).framer = .length 1020 := by
  decide +kernel
theorem test_bad_length : ((later [.characterReceived 0 0xB5, .characterReceived 0 81] lab).link 0).outbound =
    [⟨0, .reject, [1, 2]⟩] := by decide +kernel
theorem test_bad_character : ((later [.characterReceived 0 0xB5, .badCharacter 0] lab).link 0).outbound =
    [⟨0, .reject, [1, 1]⟩] := by decide +kernel
theorem test_gap : ((later [.characterReceived 0 0xB5, .gapTimerExpiry 0] lab).link 0).outbound =
    [⟨0, .reject, [1, 4]⟩] := by decide +kernel
theorem test_transmit : (((later [.release 0, .transmitFrameStart 0 false]
    (asks lab 0 .release [0, 0, 5])).link 0).sending.getD []).take 4 = [0xB6, 2, 0x21, 0] := by
  decide +kernel
theorem test_transmit_held : ((later [.release 0, .transmitFrameStart 0 true]
    (asks lab 0 .release [0, 0, 5])).link 0).sending = none := by decide +kernel
theorem test_frame_sent : ((later [.release 0, .transmitFrameStart 0 false, .frameSent 0]
    (asks lab 0 .release [0, 0, 5])).link 0).outbound = [] := by decide +kernel

/-! ### Bus engines. The WRITE on B0 stands at offset 44 of a target with pages of 8 bytes, so its
first segment is offsets 44 to 47. -/

theorem test_take_record : ((ran (.takeRecord 1 .bothHigh) lab).engine 1).state =
    .active (.onBus .operation ⟨1, [.start, .send 0xA0, .send 44, .repeatedStart, .send 0xA1,
      .receive true, .receive true, .receive true, .receive true, .receive true, .receive true,
      .receive true, .receive false, .stop]⟩) := by decide +kernel
theorem test_read_ends : ((later [.takeRecord 1 .bothHigh, .readOperationEnd 1
    ([false, false, false] ++ [1, 2, 3, 4, 5, 6, 7, 8].flatMap bitsOf) .bothHigh] lab).link 0).outbound =
      [⟨0x2C, .ok, [0, 8, 1, 2, 3, 4, 5, 6, 7, 8]⟩] := by decide +kernel
/-- Every byte of a segment of `firstSegment` acknowledged. -/
def acks : List Bool := List.replicate 6 false
theorem test_segment_ends : ((ran (.writeSegmentEnd 0 acks .bothHigh) lab).engine 0).state =
    .active (.onBus (.poll 1000) ⟨1, [.start, .send 0xA0, .stop]⟩) := by decide +kernel
theorem test_segment_data_nack : ((ran (.writeSegmentEnd 0 [false, false, false, false, true] .bothHigh)
    lab).link 0).outbound = [⟨0x2C, .datanak, [1, 2]⟩] := by decide +kernel
theorem test_poll_ends_cut : ((later [.writeSegmentEnd 0 acks .bothHigh,
    .busyPollEnd 0 [false] .bothHigh] lab).link 0).outbound = [⟨0x2C, .cut, [1, 4]⟩] := by decide +kernel
theorem test_poll_wait : ((later [.writeSegmentEnd 0 acks .bothHigh,
    .busyPollEnd 0 [true] .bothHigh] lab).engine 0).state = .active (.pollWait 1001 1000) := by
  decide +kernel
theorem test_poll_again : ((later [.writeSegmentEnd 0 acks .bothHigh,
    .busyPollEnd 0 [true] .bothHigh, .busyPollWaitExpiry 0 .dataLow] lab).engine 0).state =
      .recovering (.lineCheck (.poll 1000)) := by decide +kernel
theorem test_address_retry : (later [.writeSegmentEnd 0 [true] .bothHigh,
    .addressRetryWaitExpiry 0 .clockLow] lab).engine 0 =
      ⟨.active (.lineWait .operation), .none, .record 1, 1,
        ⟨1, [.start, .send 0xA0, .stop]⟩⟩ := by decide +kernel
/-- A stretch in the third data byte: two are acknowledged. -/
theorem test_stretch : ((ran (.clockStretchFault 0 ⟨5, List.replicate 4 false⟩) lab).engine 0).state =
    .recovering .stretch := by decide +kernel
theorem test_recovery : ((later [.clockStretchFault 0 ⟨5, List.replicate 4 false⟩,
    .recoveryEnd 0 [.bothHigh, .bothHigh] .bothHigh] lab).link 0).outbound =
      [⟨0x2C, .timeout, [1, 2]⟩] := by decide +kernel
theorem test_recovery_fails : (later [.clockStretchFault 0 ⟨5, List.replicate 4 false⟩,
    .recoveryEnd 0 [.clockLow] .bothHigh] lab).engine 0 = ⟨.fault, .stretch, .none, 0, ⟨0, [.release]⟩⟩ := by decide +kernel
/-- R66: a stretch on the ninth clock of the second byte of a READ: both bytes have arrived, and stand in the
record's data. -/
theorem test_stretch_read : ((later [.takeRecord 1 .bothHigh, .clockStretchFault 1
    ⟨6, [false, false, false] ++ bitsOf 0xC3 ++ bitsOf 0x5A⟩] lab).record 2).map (·.data) =
      some [0xC3, 0x5A] := by decide +kernel
/-- R66: a stretch after seven bits of the second byte: the first one stands in the record's data. -/
theorem test_stretch_within_byte : ((later [.takeRecord 1 .bothHigh, .clockStretchFault 1
    ⟨6, [false, false, false] ++ bitsOf 0xC3 ++ (bitsOf 0x5A).take 7⟩] lab).record 2).map (·.data) =
      some [0xC3] := by decide +kernel
/-- R72, R74: a CUT record that waits for a place has its next start moved past the segment. -/
theorem test_cut_next_start : ((later [.writeSegmentEnd 0 acks .bothHigh, .busyPollEnd 0 [false] .bothHigh]
    (lab.setLink 0 { lab.link 0 with outbound := List.replicate 6 ⟨1, .ok, []⟩ })).record 1).map
      (·.nextStart) = some 48 := by decide +kernel
/-- R89: the clock rises with the data line low: the engine is RECOVERING. -/
theorem test_clock_rises : (((ran (.takeRecord 1 .clockLow) lab).clockRises 1 .dataLow).engine 1).state =
    .recovering (.lineCheck .operation) := by decide +kernel
theorem test_clock_stuck : ((later [.takeRecord 1 .clockLow, .lineCheckClockStuck 1 .clockLow] lab).notice
    0).queue = [⟨.bus 1, .busFault .stuckClock⟩] := by decide +kernel

/-! ### Witnesses. Each shows, on `lab` or a state near it, that the hypotheses of the statement of its
name are met together, clause by clause. -/

/-- The fields of an ENDING slot. -/
def endingOf : SlotBody → Option EndingSlot
  | .ending e => some e
  | .free => none
  | .waiting _ => none
  | .held _ => none

/-- A request at a link is admitted by the intake, and what follows holds of the state it stands in. -/
abbrev Meets (base : State) (l : Link) (r : Request) (body : List Byte) (P : State → Prop) : Prop :=
  (asks base l r body).Admits l r (frame r body) [] ∧ P (asks base l r body)

/-- The HELD slots of `lab`, by their parts. -/
abbrev lease (owner : Link) (t : EntryIx) (m : Mode) (upgrade : Option Nat) (flight : Option PoolIx) :
    HeldSlot := ⟨owner, t, m, 5000, 6000, upgrade, false, flight⟩

/-- `lab` with the session of L2 CLOSED. -/
def labClosed : State := lab.setSession 2 .closed

/-- `lab` with S1 still HELD, its WRITE ACTIVE and not asked to stop. -/
def labActive : State :=
  (lab.setBody 1 (.held (lease 0 2 .exclusive none (some 1)))).setRecord 1
    (some (work .write .active (some ⟨1, 1⟩) 0))

/-- `lab` while STARTING. -/
def labStarting : State := lab.setPart .starting

/-- `lab` with a STORE QUEUED as the save job. -/
def labSaving : State := (lab.setRecord 3 (some (work .store .queued none 0))).setSaveJob (some 3)

/-- The transaction unit's law from its parts that can be evaluated. -/
theorem transactionLaw_of {s : State}
    (hr : (∀ b, (s.busQueue b).Nodup ∧ ∀ p, p ∈ s.busQueue b ↔
        ∃ r ∈ s.record p, r.state = .queued ∧ r.bus = b) ∧
      (∀ b p, (s.engine b).work = .record p ↔ ∃ r ∈ s.record p, r.state = .active ∧ r.bus = b) ∧
      (∀ l, (s.waitingDone l).Nodup ∧ ∀ p, p ∈ s.waitingDone l ↔
        ∃ r ∈ s.record p, r.state = .done ∧ r.destination = some l) ∧
      ∀ p, ∀ r ∈ s.record p, r.state = .done → r.destination ≠ none)
    (hf : (∀ i p, (s.slot i).body.inFlight? = some p → ∃ r ∈ s.record p, r.state ≠ .done ∧
        r.handle = some ⟨i, (s.slot i).generation⟩ ∧ r.destination = (s.slot i).body.owner?) ∧
      (∀ p, ∀ r ∈ s.record p, r.state ≠ .done → ∀ h ∈ r.handle,
        (s.slot h.slot).body.inFlight? = some p ∧ (s.slot h.slot).generation = h.generation) ∧
      ∀ i, ∀ e ∈ endingOf (s.slot i).body, ∃ p, ∃ r ∈ s.record p,
        e.inFlight = some p ∧ r.state = .active ∧ r.stopRequested = true)
    (hs : (∀ p, ∀ r ∈ s.record p, (r.kind = .store ↔ r.handle = none)) ∧
      ∀ p, s.saveJob = some p ↔ ∃ r ∈ s.record p, r.kind = .store) :
    s.TransactionLaw := by
  refine ⟨hr, ⟨hf.1, fun p r h a b c => hf.2.1 p r a b h c, fun i e h => ?_⟩, hs⟩
  obtain ⟨p, r, a, b, c, d⟩ := hf.2.2 i e (by rw [h]; rfl)
  exact ⟨p, r, b, a, c, d⟩
theorem lab_transactionLaw : lab.TransactionLaw :=
  transactionLaw_of (by decide +kernel) (by decide +kernel) (by decide +kernel)

theorem labClosed_closedLaw (base : State) (h : base = labClosed ∨
    base = asks labClosed 2 .hello [0, 7] ∨ base = asks labClosed 0 .hello [0, 7] ∨
    base = asks labClosed 0 .hello [0, 0]) : base.ClosedLaw := by
  have key : ∀ l, (labClosed.session l).isClosed = true →
      (∀ i, (labClosed.slot i).body.owner? ≠ some l) ∧
      (∀ p, ∀ r ∈ labClosed.record p, r.destination ≠ some l) ∧ labClosed.waitingDone l = [] := by
    decide +kernel
  have : labClosed.ClosedLaw := fun l hl => ⟨(key l hl).1, (key l hl).2.1, (key l hl).2.2⟩
  rcases h with rfl | rfl | rfl | rfl <;> exact this

/-- The engine of B0 at work on the WRITE of `lab`, in a state. -/
def writing (x : EngineState) : State :=
  labActive.setEngine 0 ⟨x, .none, .record 1, 0, ⟨0, []⟩⟩
theorem witness_StepTakesFrontCommand :
    ({ lab with pending := [.hello 0, .bye 1] } : State).pending = .hello 0 :: [.bye 1] ∧
    lab.pending = [] ∧ (∀ b, (lab.engine b).state.waitsForClock = false) ∧
    (writing (.active (.lineWait .operation))).pending = [] ∧
    ((writing (.active (.lineWait .operation))).engine 0).state = .active (.lineWait .operation) := by
  decide +kernel
theorem witness_EveryCommandCompletes : isColdStart (.hello 0) = false := rfl
theorem witness_HelloByTable : (Meets labClosed 2 .hello [0, 7] fun s => s.session 2 = .closed) ∧
    (Meets labClosed 0 .hello [0, 7] fun s => s.session 0 = .opened 7) ∧
    (Meets labClosed 0 .hello [0, 0] fun s => s.session 0 = .opened 7) := by decide +kernel
theorem witness_HelloByTable_law : (asks labClosed 2 .hello [0, 7]).ClosedLaw ∧
    (asks labClosed 0 .hello [0, 7]).ClosedLaw ∧ (asks labClosed 0 .hello [0, 0]).ClosedLaw :=
  ⟨labClosed_closedLaw _ (by simp), labClosed_closedLaw _ (by simp), labClosed_closedLaw _ (by simp)⟩
theorem witness_ByeEndsSession : Meets lab 0 .bye [] fun _ => True := by decide +kernel
theorem witness_OpenGranted :
    (Meets lab 2 .openLease [3, 0, 0, 0, 0, 0] fun s =>
      openArgs [3, 0, 0, 0, 0, 0] = some ⟨3, .shared, 0, 0⟩ ∧
      (s.entry 3).body = .present { memory with address := 0x52 } ∧
      s.openRefusal 2 ⟨3, .shared, 0, 0⟩ = none ∧ (s.entry 3).waitQueue = [] ∧
      s.compatible 3 .shared = true ∧ (s.slot 6).body = .free ∧
      ∀ j, j < 6 → (s.slot j).body ≠ .free) ∧
    openArgs [3, 1, 0xEA, 0x60, 0x17, 0x70] = some ⟨3, .exclusive, 60000, 6000⟩ := by decide +kernel
theorem witness_OpenWaits : Meets lab 2 .openLease [0, 0, 0, 0, 0x17, 0x70] fun s =>
    openArgs [0, 0, 0, 0, 0x17, 0x70] = some ⟨0, .shared, 0, 6000⟩ ∧
    (s.entry 0).body = .present memory ∧ s.openRefusal 2 ⟨0, .shared, 0, 6000⟩ = none ∧
    ¬ ((s.entry 0).waitQueue = [] ∧ s.compatible 0 .shared = true) ∧ (s.slot 6).body = .free ∧
    ∀ j, j < 6 → (s.slot j).body ≠ .free := by decide +kernel
theorem witness_OpenRefused :
    (Meets lab 2 .openLease [32, 0, 0, 0, 0, 0] fun _ => 31 < (byteAt [32, 0, 0, 0, 0, 0] 0).toNat) ∧
    (Meets lab 2 .openLease [0, 2, 0, 0, 0, 0] fun _ => 1 < (byteAt [0, 2, 0, 0, 0, 0] 1).toNat) ∧
    (Meets lab 2 .openLease [0, 0, 0xEA, 0x61, 0, 0] fun _ =>
      60000 < wordAt [0, 0, 0xEA, 0x61, 0, 0] 2) ∧
    (Meets lab 2 .openLease [0, 0, 0, 0, 0x17, 0x71] fun _ =>
      6000 < wordAt [0, 0, 0, 0, 0x17, 0x71] 4) ∧
    (Meets lab 2 .openLease [31, 1, 0xEA, 0x60, 0, 0] fun s => 31 = (byteAt [31, 1, 0xEA, 0x60, 0, 0] 0).toNat ∧
      byteAt [31, 1, 0xEA, 0x60, 0, 0] 1 = Mode.exclusive.code ∧
      wordAt [31, 1, 0xEA, 0x60, 0, 0] 2 = 60000 ∧ wordAt [31, 1, 0xEA, 0x60, 0, 0] 4 = 0 ∧
      s.openRefusal 2 ⟨31, .exclusive, 60000, 0⟩ = some .notarget) ∧
    (asks lab 0 .openLease [0, 0, 0, 0, 0, 0]).openRefusal 0 ⟨0, .shared, 0, 0⟩ = some .duplicate ∧
    (asks lab 2 .openLease [0, 0, 0, 0, 0, 0]).openRefusal 2 ⟨0, .shared, 0, 0⟩ = some .contended := by
  refine ⟨?_, ?_, ?_, ?_, ?_, ?_, ?_⟩ <;> decide +kernel
theorem witness_HandleChecks :
    (Meets lab 0 .renew [48, 0, 1, 0xEA, 0x60] fun s => wordAt [48, 0, 1, 0xEA, 0x60] 3 ≤ 60000 ∧
      ∀ i, s.Names [48, 0, 1, 0xEA, 0x60] i → (s.slot i).body.owner? ≠ some 0) ∧
    (Meets lab 0 .changeMode [1, 0, 1, 1, 0x17, 0x70] fun s =>
      ((byteAt [1, 0, 1, 1, 0x17, 0x70] 3).toNat ≤ 1 ∧ wordAt [1, 0, 1, 1, 0x17, 0x70] 4 ≤ 6000) ∧
      s.Names [1, 0, 1, 1, 0x17, 0x70] 1 ∧
      (s.slot 1).body = .ending ⟨some 0, 2, .exclusive, some 1, .lapsed⟩) ∧
    (Meets lab 3 .read [2, 0, 3, 0, 0, 1] fun s => s.Names [2, 0, 3, 0, 0, 1] 2 ∧
      (s.slot 2).body = .waiting ⟨3, 0, .shared, 4000, 2000⟩) := by decide +kernel
theorem witness_RenewHeld :
    (Meets lab 0 .renew [0, 0, 5, 0xEA, 0x61] fun _ => 60000 < wordAt [0, 0, 5, 0xEA, 0x61] 3) ∧
    (Meets lab 0 .renew [0, 0, 5, 0xEA, 0x60] fun s => wordAt [0, 0, 5, 0xEA, 0x60] 3 ≤ 60000 ∧
      s.NamesHeld 0 [0, 0, 5, 0xEA, 0x60] 0 (lease 0 0 .exclusive none none) ∧
      (s.entry 0).body.fields? = some memory) := by decide +kernel
theorem witness_ReleaseByState :
    (Meets lab 3 .release [2, 0, 3] fun s => s.Names [2, 0, 3] 2 ∧
      (s.slot 2).body = .waiting ⟨3, 0, .shared, 4000, 2000⟩) ∧
    (Meets lab 0 .release [0, 0, 5] fun s => s.Names [0, 0, 5] 0 ∧
      (s.slot 0).body = .held (lease 0 0 .exclusive none none)) ∧
    (Meets lab 0 .release [3, 0, 4] fun s => s.Names [3, 0, 4] 3 ∧
      (s.slot 3).body = .held (lease 0 1 .shared none (some 2))) := by decide +kernel
theorem witness_ChangeModeToShared :
    (Meets lab 0 .changeMode [0, 0, 5, 2, 0, 0] fun _ => 1 < (byteAt [0, 0, 5, 2, 0, 0] 3).toNat) ∧
    (Meets lab 0 .changeMode [0, 0, 5, 0, 0x17, 0x71] fun _ =>
      6000 < wordAt [0, 0, 5, 0, 0x17, 0x71] 4) ∧
    (Meets lab 0 .changeMode [3, 0, 4, 1, 0, 0] fun s =>
      s.NamesHeld 0 [3, 0, 4, 1, 0, 0] 3 (lease 0 1 .shared none (some 2))) ∧
    (Meets lab 0 .changeMode [0, 0, 5, 0, 0x17, 0x70] fun s =>
      wordAt [0, 0, 5, 0, 0x17, 0x70] 4 ≤ 6000 ∧
      s.NamesHeld 0 [0, 0, 5, 0, 0x17, 0x70] 0 (lease 0 0 .exclusive none none)) ∧
    (Meets lab 3 .changeMode [4, 0, 2, 0, 0, 0] fun s =>
      s.NamesHeld 3 [4, 0, 2, 0, 0, 0] 4 (lease 3 1 .shared (some 3000) none)) := by
  refine ⟨?_, ?_, ?_, ?_, ?_⟩ <;> decide +kernel
theorem witness_ChangeModeToExclusive : (Meets lab 3 .changeMode [4, 0, 2, 1, 0x17, 0x70] fun s =>
      byteAt [4, 0, 2, 1, 0x17, 0x70] 3 = 1 ∧ wordAt [4, 0, 2, 1, 0x17, 0x70] 4 ≤ 6000 ∧
      s.NamesHeld 3 [4, 0, 2, 1, 0x17, 0x70] 4 (lease 3 1 .shared (some 3000) none) ∧
      (s.entry 1).body.fields? = some hub) ∧
    (Meets lab 0 .changeMode [0, 0, 5, 1, 0, 0] fun s =>
      s.NamesHeld 0 [0, 0, 5, 1, 0, 0] 0 (lease 0 0 .exclusive none none) ∧
      (s.entry 0).body.fields? = some memory) := by decide +kernel
/-- The records in flight that the ends of a lease meet: one QUEUED, one ACTIVE. -/
theorem witness_LeaseEndsByFlight :
    lab.record 2 = some (work .read .queued (some ⟨3, 4⟩) 1) ∧
    (lab.slot 3).body = .held (lease 0 1 .shared none (some 2)) ∧
    labActive.record 1 = some (work .write .active (some ⟨1, 1⟩) 0) ∧
    (labActive.slot 1).body = .held (lease 0 2 .exclusive none (some 1)) := by decide +kernel
theorem witness_RevokeByState :
    (Meets lab 3 .revoke [48, 0, 1] fun _ => 47 < (byteAt [48, 0, 1] 0).toNat) ∧
    (Meets lab 3 .revoke [47, 0, 1] fun s => (47 : SlotIx).val = (byteAt [47, 0, 1] 0).toNat ∧
      (s.slot 47).body = .free) ∧
    (Meets lab 3 .revoke [0, 0, 9] fun s => (s.slot 0).generation ≠ wordAt [0, 0, 9] 1) ∧
    (Meets lab 3 .revoke [1, 0, 1] fun s => (s.slot 1).generation = wordAt [1, 0, 1] 1 ∧
      (s.slot 1).body = .ending ⟨some 0, 2, .exclusive, some 1, .lapsed⟩) ∧
    (Meets lab 3 .revoke [2, 0, 3] fun s => (s.slot 2).generation = wordAt [2, 0, 3] 1 ∧
      (s.slot 2).body = .waiting ⟨3, 0, .shared, 4000, 2000⟩) ∧
    (Meets lab 3 .revoke [0, 0, 5] fun s => (s.slot 0).generation = wordAt [0, 0, 5] 1 ∧
      (s.slot 0).body = .held (lease 0 0 .exclusive none none)) ∧
    (Meets lab 3 .revoke [3, 0, 4] fun s => (s.slot 3).generation = wordAt [3, 0, 4] 1 ∧
      (s.slot 3).body = .held (lease 0 1 .shared none (some 2)) ∧
      s.record 2 = some (work .read .queued (some ⟨3, 4⟩) 1)) ∧
    (Meets labActive 3 .revoke [1, 0, 1] fun s => (s.slot 1).generation = wordAt [1, 0, 1] 1 ∧
      (s.slot 1).body = .held (lease 0 2 .exclusive none (some 1)) ∧
      s.record 1 = some (work .write .active (some ⟨1, 1⟩) 0)) ∧
    0 ≤ (lab.link 3).outbound.length := by
  refine ⟨?_, ?_, ?_, ?_, ?_, ?_, ?_, ?_, ?_⟩ <;> decide +kernel
theorem witness_TermExpires : (lab.slot 0).body = .held (lease 0 0 .exclusive none none) ∧
    (lab.slot 3).body = .held (lease 0 1 .shared none (some 2)) ∧
    lab.record 2 = some (work .read .queued (some ⟨3, 4⟩) 1) ∧
    (labActive.slot 1).body = .held (lease 0 2 .exclusive none (some 1)) ∧
    labActive.record 1 = some (work .write .active (some ⟨1, 1⟩) 0) := by decide +kernel
theorem witness_SlotsKeepTheirCourse : isColdStart (.writeSegmentEnd 0 [false, true] .bothHigh) = false ∧
    exec (.writeSegmentEnd 0 [false, true] .bothHigh) lab =
      .next (ran (.writeSegmentEnd 0 [false, true] .bothHigh) lab) ∧ lab.TransactionLaw ∧
    (lab.slot 1).body = .ending ⟨some 0, 2, .exclusive, some 1, .lapsed⟩ ∧
    ((ran (.writeSegmentEnd 0 [false, true] .bothHigh) lab).slot 1).body = .free :=
  ⟨rfl, rfl, lab_transactionLaw, by decide +kernel, by decide +kernel⟩
theorem witness_GrantPassByRule : (lab.entry 3).waitQueue = [] ∧ (lab.entry 0).waitQueue = 2 :: [] ∧
    (lab.slot 2).body = .waiting ⟨3, 0, .shared, 4000, 2000⟩ ∧ (lab.entry 1).waitQueue = 4 :: [] ∧
    (lab.slot 4).body = .held (lease 3 1 .shared (some 3000) none) := by decide +kernel
theorem witness_GrantPassSettlesQueue : lab.QueueLaw 0 := by
  refine ⟨by decide +kernel, by decide +kernel, by decide +kernel, ?_⟩
  change lab.waitingCount 0 ≤ 4
  decide +kernel
theorem witness_TimersRunOut : (lab.slot 0).body = .held (lease 0 0 .exclusive none none) ∧
    0 < lab.warnMs 0 ∧ (lab.slot 2).body = .waiting ⟨3, 0, .shared, 4000, 2000⟩ ∧
    (lab.slot 4).body = .held (lease 3 1 .shared (some 3000) none) ∧
    lab.session 1 = .suspended 8 6000 := by decide +kernel
theorem witness_SetTargetByChecks :
    (Meets lab 3 .setTarget (32 :: fieldBytes memory) fun _ =>
      31 < (byteAt (32 :: fieldBytes memory) 0).toNat) ∧
    (Meets lab 3 .setTarget (31 :: fieldBytes { memory with qlim := 13 }) fun _ =>
      (fieldsAt (31 :: fieldBytes { memory with qlim := 13 }) 1).valid = false) ∧
    (Meets lab 3 .setTarget (31 :: fieldBytes memory) fun s =>
      (fieldsAt (31 :: fieldBytes memory) 1).valid = true ∧ (31 : EntryIx) ≠ 0 ∧
      (s.entry 0).body.fields? = some memory ∧ (s.entry 31).body = .absent) ∧
    (Meets lab 3 .setTarget (2 :: fieldBytes { memory with address := 0x77 }) fun s =>
      (s.entry 2).body = .retiring { memory with address := 0x51 } ∧ ∀ x,
        ((s.entry x).body.fields?.all fun g => g.bus != 0 || g.address != 0x77) = true) ∧
    (Meets lab 3 .setTarget (0 :: fieldBytes memory) fun s => (s.entry 0).body = .present memory ∧
      (s.slot 0).body.target? = some 0) ∧
    (Meets lab 3 .setTarget (3 :: fieldBytes { memory with address := 0x77 }) fun s =>
      (s.entry 3).body = .present { memory with address := 0x52 } ∧
      ∀ i, (s.slot i).body.target? ≠ some 3) := by
  refine ⟨?_, ?_, ?_, ?_, ?_, ?_⟩ <;> decide +kernel
theorem witness_DropTargetByState :
    (Meets lab 3 .dropTarget [32] fun _ => 31 < (byteAt [32] 0).toNat) ∧
    (Meets lab 3 .dropTarget [31] fun s => (s.entry 31).body = .absent) ∧
    (Meets lab 3 .dropTarget [2] fun s =>
      (s.entry 2).body = .retiring { memory with address := 0x51 }) ∧
    (Meets lab 3 .dropTarget [0] fun s => (s.entry 0).body = .present memory) ∧
    (lab.slot 2).body = .waiting ⟨3, 0, .shared, 4000, 2000⟩ ∧
    (lab.slot 0).body = .held (lease 0 0 .exclusive none none) ∧
    (lab.slot 6).body.target? ≠ some 0 := by
  refine ⟨?_, ?_, ?_, ?_, ?_, ?_, ?_⟩ <;> decide +kernel
theorem witness_DropTargetLeaves : lab.TransactionLaw ∧ (lab.entry 1).body = .present hub :=
  ⟨lab_transactionLaw, by decide +kernel⟩
theorem witness_SetRightsByRule :
    (Meets lab 3 .setRights [4, 0, 0, 1, 0, 0] fun _ => 3 < (byteAt [4, 0, 0, 1, 0, 0] 0).toNat) ∧
    (Meets lab 3 .setRights [3, 0, 0, 0, 0, 0] fun _ => (byteAt [3, 0, 0, 0, 0, 0] 3).toNat = 0) ∧
    (Meets lab 3 .setRights [3, 0, 0, 25, 0, 0] fun _ => 24 < (byteAt [3, 0, 0, 25, 0, 0] 3).toNat) ∧
    (Meets lab 3 .setRights [3, 0, 0, 1, 0x17, 0x71] fun _ =>
      6000 < wordAt [3, 0, 0, 1, 0x17, 0x71] 4) ∧
    (Meets lab 3 .setRights [3, 0, 0, 24, 0x17, 0x70] fun _ =>
      (3 : Link).val = (byteAt [3, 0, 0, 24, 0x17, 0x70] 0).toNat ∧
      1 ≤ (byteAt [3, 0, 0, 24, 0x17, 0x70] 3).toNat ∧ (byteAt [3, 0, 0, 24, 0x17, 0x70] 3).toNat ≤ 24 ∧
      wordAt [3, 0, 0, 24, 0x17, 0x70] 4 ≤ 6000) := by
  refine ⟨?_, ?_, ?_, ?_, ?_⟩ <;> decide +kernel
theorem lab_holderLaw : lab.HolderLaw := by
  have key : ∀ i, ∀ x ∈ (lab.slot i).body.holding?, x.2 = .exclusive → ∀ j, i ≠ j →
      ∀ y ∈ (lab.slot j).body.holding?, y.1 ≠ x.1 := by decide +kernel
  intro i j t m n hij hi hj
  refine ⟨?_, ?_⟩
  · cases m
    · rfl
    · exact absurd rfl (key i (t, .exclusive) hi rfl j hij (t, n) hj)
  · cases n
    · rfl
    · exact absurd rfl (key j (t, .exclusive) hj rfl i hij.symm (t, m) hi)
theorem witness_QueryTargetAnswers : (asks lab 0 .queryTarget [1]).HolderLaw ∧
    (Meets lab 0 .queryTarget [32] fun _ => 31 < (byteAt [32] 0).toNat) ∧
    (Meets lab 0 .queryTarget [1] fun s => (1 : EntryIx).val = (byteAt [1] 0).toNat ∧
      (∀ i, (s.slot i).body.holding? ≠ some (1, .exclusive)) ∧
      (s.entry 1).waitQueue = 4 :: [] ∧ (s.slot 4).body = .held (lease 3 1 .shared (some 3000) none)) ∧
    (Meets lab 0 .queryTarget [2] fun s => (s.slot 1).body.holding? = some (2, .exclusive) ∧
      (s.entry 2).waitQueue = []) := by
  refine ⟨lab_holderLaw, ?_, ?_, ?_⟩ <;> decide +kernel
theorem witness_TransactionAccepted :
    (Meets lab 0 .read [0, 0, 5, 0, 192, 64] fun s =>
      s.NamesHeld 0 [0, 0, 5, 0, 192, 64] 0 (lease 0 0 .exclusive none none) ∧
      (s.entry 0).body.fields? = some memory ∧ 64 = (byteAt [0, 0, 5, 0, 192, 64] 5).toNat ∧
      s.transactionRefusal .read (lease 0 0 .exclusive none none) memory
        (wordAt [0, 0, 5, 0, 192, 64] 3) 64 = none) ∧
    (Meets lab 0 .write [0, 0, 5, 0, 255, 9] fun s =>
      s.NamesHeld 0 [0, 0, 5, 0, 255, 9] 0 (lease 0 0 .exclusive none none) ∧
      s.transactionRefusal .write (lease 0 0 .exclusive none none) memory
        (wordAt [0, 0, 5, 0, 255, 9] 3) 1 = none) := by
  refine ⟨?_, ?_⟩ <;> decide +kernel
theorem witness_TransactionRefused :
    (Meets lab 0 .read [0, 0, 5, 0, 193, 64] fun s =>
      s.NamesHeld 0 [0, 0, 5, 0, 193, 64] 0 (lease 0 0 .exclusive none none) ∧
      (s.entry 0).body.fields? = some memory ∧
      s.transactionRefusal .read (lease 0 0 .exclusive none none) memory
        (wordAt [0, 0, 5, 0, 193, 64] 3) 64 = some .bounds) ∧
    (Meets lab 0 .write [3, 0, 4, 0, 0, 9] fun s =>
      s.NamesHeld 0 [3, 0, 4, 0, 0, 9] 3 (lease 0 1 .shared none (some 2)) ∧
      (s.entry 1).body.fields? = some hub ∧
      s.transactionRefusal .write (lease 0 1 .shared none (some 2)) hub
        (wordAt [3, 0, 4, 0, 0, 9] 3) 1 = some .mode) := by
  refine ⟨?_, ?_⟩ <;> decide +kernel
/-- `lab` with a second ENDING slot on the RETIRING entry. -/
def labEndings : State := lab.setSlot 6 ⟨1, .ending ⟨none, 2, .shared, some 4, .session⟩⟩
theorem witness_CompletionClearsSlot :
    labSaving.record 3 = some (work .store .queued none 0) ∧
    lab.record 2 = some (work .read .queued (some ⟨3, (lab.slot 3).generation⟩) 1) ∧
    (lab.slot 3).body = .held (lease 0 1 .shared none (some 2)) ∧
    lab.record 1 = some { work .write .active (some ⟨1, (lab.slot 1).generation⟩) 0 with
      stopRequested := true } ∧
    (lab.slot 1).body = .ending ⟨some 0, 2, .exclusive, some 1, .lapsed⟩ ∧
    (lab.entry 2).body = .retiring { memory with address := 0x51 } ∧
    (∀ j, j ≠ 1 → (lab.slot j).body.target? ≠ some 2) ∧
    (labEndings.slot 6).body.target? = some 2 ∧ (6 : SlotIx) ≠ 1 := by
  refine ⟨?_, ?_, ?_, ?_, ?_, ?_, ?_, ?_, ?_⟩ <;> decide +kernel
theorem witness_CompletionRouting :
    ({ work .store .done none 0 with destination := none } : Record).destination = none ∧
    (work .read .done none 1).destination = some 0 ∧ labClosed.session 2 = .closed ∧
    lab.session 1 = .suspended 8 6000 ∧ lab.session 0 = .opened 7 := by
  refine ⟨?_, ?_, ?_, ?_, ?_⟩ <;> decide +kernel
/-- A STORE of 100 bytes in a phase, from an offset. -/
def store (phase : StorePhase) (start : Nat) : Record :=
  { work .store .active none 0 with
    snapshot := storeSnapshot, offset := 0, count := 100, phase := some phase, nextStart := start }
theorem witness_SegmentPlan : 0 < memory.snapshot.pageSize ∧ 0 < storeSnapshot.pageSize ∧
    0 < hub.snapshot.pageSize ∧ hub.snapshot.offsetWidth = 0 ∧ 0 < memory.snapshot.offsetWidth ∧
    ((work .write .active none 0).phase = none ∧
      (work .write .active none 0).offset ≤ (work .write .active none 0).nextStart ∧
      (work .write .active none 0).nextStart < 44 + 8 ∧ (work .write .active none 0).data.length = 8) ∧
    ((store .body 2).snapshot = storeSnapshot ∧ (store .body 2).phase = some .body ∧
      2 ≤ (store .body 2).nextStart ∧ (store .body 96).nextStart < (store .body 96).count) ∧
    (store .invalidate 0).phase = some .invalidate ∧ (store .sign 0).phase = some .sign ∧
    (store .sign 0).nextStart = 0 := by
  refine ⟨?_, ?_, ?_, ?_, ?_, ?_, ?_, ?_, ?_, ?_⟩ <;> decide +kernel
theorem witness_CollectByRule : (Meets lab 0 .collect [0] fun _ => True) ∧
    (Meets lab 0 .collect [4] fun _ => True) ∧ (Meets lab 0 .collect [5] fun _ => True) := by
  refine ⟨?_, ?_, ?_⟩ <;> decide +kernel
theorem witness_NoticeOfferByRule : labClosed.session 2 = .closed ∧ lab.session 0 ≠ .closed ∧
    (lab.notice 0).queue.Pairwise (fun a b => a.cls ≤ b.cls) ∧ (lab.notice 0).queue.length < 8 ∧
    (List.replicate 8 (⟨.bus 0, .busRestored⟩ : Notice)).length = 8 ∧
    List.replicate 8 (⟨.bus 0, .busRestored⟩ : Notice) =
      List.replicate 7 (⟨.bus 0, .busRestored⟩ : Notice) ++ [⟨.bus 0, .busRestored⟩] ∧
    (⟨.bus 1, .busRestored⟩ : Notice).detail.kind = (⟨.bus 0, .busRestored⟩ : Notice).detail.kind := by
  refine ⟨?_, ?_, ?_, ?_, ?_, ?_, ?_⟩ <;> decide +kernel
theorem witness_SupervisorQueriesAnswer :
    (Meets lab 3 .querySlot [48] fun _ => 47 < (byteAt [48] 0).toNat) ∧
    (Meets lab 3 .querySlot [47] fun _ => (47 : SlotIx).val = (byteAt [47] 0).toNat) ∧
    (Meets lab 3 .queryBus [2] fun _ => 1 < (byteAt [2] 0).toNat) ∧
    (Meets lab 3 .queryBus [0] fun s => (s.engine 0).work = .record 1 ∧ s.record 1 =
      some { work .write .active (some ⟨1, 1⟩) 0 with stopRequested := true }) ∧
    (Meets lab 3 .queryBus [1] fun s => ∀ p, (s.engine 1).work ≠ .record p) ∧
    (Meets lab 3 .queryLink [4] fun _ => 3 < (byteAt [4] 0).toNat) ∧
    (Meets lab 3 .queryLink [3] fun _ => (3 : Link).val = (byteAt [3] 0).toNat) ∧
    (Meets lab 3 .queryStart [] fun _ => True) := by
  refine ⟨?_, ?_, ?_, ?_, ?_, ?_, ?_, ?_⟩ <;> decide +kernel
/-- A frame stands at a link of `lab` with a code, a body and no more. -/
def offered (base : State) (l : Link) (code : Byte) (body : List Byte) : State :=
  base.setLink l { base.link l with requestQueue := [⟨0x21, code, body⟩] }
theorem witness_IntakeChecks :
    ((asks labStarting 0 .hello [0, 7]).Offers 0 (frame .hello [0, 7]) [] ∧
      (asks labStarting 0 .hello [0, 7]).part = .starting) ∧
    ((asks lab 0 .hello [7]).Offers 0 (frame .hello [7]) [] ∧ (asks lab 0 .hello [7]).part = .ready ∧
      Request.hello.bodyOk [7] = false) ∧
    ((asks labClosed 2 .collect [1]).Offers 2 (frame .collect [1]) [] ∧
      Request.collect.bodyOk [1] = true ∧ (labClosed.session 2).isOpen = false) ∧
    ((asks lab 0 .queryStart []).Offers 0 (frame .queryStart []) [] ∧
      (lab.session 0).isOpen = true ∧ Request.queryStart.supervisor = true ∧
      (asks lab 0 .queryStart []).supervisor ≠ some 0) ∧
    ((offered lab 0 0x99 []).Offers 0 ⟨0x21, 0x99, []⟩ [] ∧ ∀ r ∈ allRequests, 0x99 ≠ r.code) := by
  refine ⟨?_, ?_, ?_, ?_, ?_⟩ <;> decide +kernel
/-- Nothing held and nothing in use, after the load of an image. -/
def labQuiet : State := (State.reset.setLoad none).setPart .ready
theorem witness_NoEventNoChange : (lab.link 0).requestQueue = [] ∧
    ((offered lab 0 0x99 []).link 0).requestQueue = ⟨0x21, 0x99, []⟩ :: [] ∧
    (0x99 : Byte) ≠ Request.hello.code ∧
    ((asks lab 0 .bye []).link 0).requestQueue = frame .bye [] :: [] ∧
    (∀ h, (lab.slot 2).body ≠ .held h) ∧ (∀ w, (lab.slot 0).body ≠ .waiting w) ∧
    (∀ key d, lab.session 0 ≠ .suspended key d) ∧ lab.restart = none ∧ (lab.link 0).line = .up ∧
    (State.reset.link 0).line = .down ∧ (lab.link 0).framer = .hunt ∧ (lab.link 0).sending = none ∧
    (lab.engine 0).state ≠ .idle ∧ lab.underway 1 = none ∧
    (∀ a, (lab.engine 1).state ≠ .active (.lineWait a)) ∧ (∀ c, (lab.engine 1).state ≠ .recovering c) ∧
    (∀ d, (lab.engine 1).state ≠ .active (.retryWait d)) ∧
    (∀ d began, (lab.engine 1).state ≠ .active (.pollWait d began)) := by
  have h2 : (lab.slot 2).body = .waiting ⟨3, 0, .shared, 4000, 2000⟩ := by decide +kernel
  have h0 : (lab.slot 0).body = .held (lease 0 0 .exclusive none none) := by decide +kernel
  have hs : lab.session 0 = .opened 7 := by decide +kernel
  have he : (lab.engine 1).state = .idle := by decide +kernel
  rw [h2, h0, hs, he]
  and_intros <;> first | decide +kernel | (intros; simp)
/-- The clauses of NoEventNoChange on a unit that is at another point, or by readings of no course. -/
theorem witness_NoEventNoChange_units :
    ((lab.slot 0).body = .held (lease 0 0 .exclusive none none) ∧ lab.warnMs 1 = 0 ∧
      (lab.slot 3).body = .held (lease 0 1 .shared none (some 2))) ∧
    ((lab.setRestart (some ⟨.keep, [0]⟩)).restart = some ⟨.keep, [0]⟩ ∧ (1 : Link) ∉ [(0 : Link)]) ∧
    (lab.link 0).outbound = [] ∧
    ((labQuiet.engine 1).state = .idle ∧ labQuiet.busQueue 1 = [] ∧ labQuiet.load = none) ∧
    lab.underway 0 = some (.operation, firstSegment) ∧ runElements firstSegment.elements [] = none ∧
    ((lab.engine 0).work = .record 1 ∧ ∀ r ∈ lab.record 1, r.kind = .write) ∧
    (writing (.active (.onBus (.poll 990) (pollPlan memory.snapshot)))).underway 0 =
      some (.poll 990, pollPlan memory.snapshot) ∧
    (∀ run, ¬ StretchedAt firstSegment.elements ⟨8, []⟩ run) ∧
    runRecovery [.dataLow] = none := by
  and_intros <;> first
    | decide +kernel
    | (rintro run ⟨front, e, back, levels, bits, whole, h, hw, -⟩
       have := congrArg List.length h
       simp [firstSegment] at this hw
       omega)

/-- A load whose next operation is at a stage, on B0, in a state. -/
def loadingIn (x : EngineState) (stage : LoadStage) : State :=
  (labStarting.setLoad (some ⟨stage, [], []⟩)).setEngine 0 ⟨x, .none, .load, 0, ⟨0, []⟩⟩
/-- The same with the operation on the bus. -/
def loading (stage : LoadStage) : State :=
  loadingIn (.active (.onBus .operation (readPlan storeSnapshot stage.extent.1 stage.extent.2))) stage
/-- What the store sends for a load operation: its acknowledgements and this many bytes of 0. -/
def sends (n : Nat) : List Bool := List.replicate (4 + 8 * n) false
theorem witness_LoadAdvances : ((loading .signature).engine 0).work = .load ∧
    (loading .signature).load = some ⟨.signature, [], []⟩ ∧
    (loading .signature).underway 0 = some (.operation, readPlan storeSnapshot 0 2) ∧
    ((runElements (readPlan storeSnapshot 0 2).elements
      ([false, false, false, false] ++ [0xA4, 0x16].flatMap bitsOf)).map fun x => (x.refused, x.data)) =
        some (false, [0xA4, 0x16]) ∧
    (runElements (readPlan storeSnapshot 0 2).elements [true]).map (·.refused) = some true ∧
    (loading (.header 4094)).underway 0 = some (.operation, readPlan storeSnapshot 4094 2) ∧
    (loading .lastByte).underway 0 = some (.operation, readPlan storeSnapshot 4095 1) ∧
    ((runElements (readPlan storeSnapshot 4095 1).elements (sends 1)).map (·.data.length)) = some 1 ∧
    (loading (.body 2 100 64)).underway 0 = some (.operation, readPlan storeSnapshot 68 38) ∧
    ((runElements (readPlan storeSnapshot 68 38).elements (sends 38)).map (·.data.length)) =
      some (min 64 (100 + 2 - 64)) ∧ 100 + 2 ≤ 64 + 38 ∧
    ((runElements (readPlan storeSnapshot 4 64).elements (sends 64)).map (·.data.length)) =
      some (min 64 (100 + 2 - 0)) ∧ 0 + 64 < 100 + 2 := by
  and_intros <;> decide +kernel
theorem witness_LoadAdvances_failing :
    StretchedAt (readPlan storeSnapshot 0 2).elements ⟨1, [true]⟩
      ⟨[.start, .send 0xA6], 0, true, []⟩ ∧
    ((loadingIn (.active (.retryWait 1001)) .signature).engine 0).state = .active (.retryWait 1001) ∧
    ((loadingIn (.recovering .stretch) .signature).engine 0).state = .recovering .stretch ∧
    ((loadingIn (.recovering (.lineCheck .operation)) .signature).engine 0).state =
      .recovering (.lineCheck .operation) ∧
    ((loadingIn (.active (.lineWait .operation)) .signature).engine 0).state =
      .active (.lineWait .operation) ∧
    runRecovery [.bothHigh, .bothHigh] = some ⟨[.release, .stop], .success⟩ ∧
    runRecovery [.clockLow] = some ⟨[.release], .clockFailed⟩ ∧
    runRecovery [.bothHigh, .dataLow] = some ⟨[.release, .stop], .dataFailed⟩ := by
  and_intros <;> first | decide +kernel | exact runToStretch_iff.mp (by decide +kernel)
theorem witness_BlockClassified : (3 :: fieldBytes memory).length = (15 : Byte).toNat ∧
    ([0, 0] : List Byte) ≠ crcBytes (1 :: 15 :: 3 :: fieldBytes memory) ∧
    (crcBytes (1 :: 15 :: 3 :: fieldBytes memory)).length = 2 ∧
    ([] : List Byte).length = (0 : Byte).toNat ∧ ¬ ((7 : Byte) = 1 ∧ (0 : Byte) = 15) ∧
    ¬ ((7 : Byte) = 2 ∧ (0 : Byte) = 6) ∧
    31 < (byteAt (32 :: fieldBytes memory) 0).toNat ∧
    (fieldsAt (31 :: fieldBytes memory) 1).valid = true ∧ (3 : EntryIx) ∈ [(3 : EntryIx)] ∧
    (3 : EntryIx) ∉ ([] : List EntryIx) ∧
    ((3 : EntryIx).val ≠ (0 : EntryIx).val ∧ (lab.entry 0).body.fields? = some memory) ∧
    ([3, 0, 0, 24, 0x17, 0x70] : List Byte).length = (6 : Byte).toNat ∧
    (rightsAt [3, 0, 0, 24, 0x17, 0x70] 1).quota = 24 ∧
    (rightsAt [3, 0, 0, 24, 0x17, 0x70] 1).grace = 6000 ∧
    24 < (rightsAt [3, 0, 0, 25, 0, 0] 1).quota := by
  refine ⟨?_, ?_, ?_, ?_, ?_, ?_, ?_, ?_, ?_, ?_, ?_, ?_, ?_, ?_, ?_⟩ <;> decide +kernel
/-- `lab` with the B0 engine in FAULT. -/
def labFault : State := lab.setEngine 0 ⟨.fault, .stretch, .none, 0, ⟨0, []⟩⟩
theorem witness_SaveByChecks :
    (Meets labSaving 3 .saveCatalogue [] fun s => s.saveJob ≠ none) ∧
    (Meets labFault 3 .saveCatalogue [] fun s => s.saveJob = none ∧ (s.engine 0).state = .fault) ∧
    (Meets (lab.setBusQueue 0 (List.replicate 8 2)) 3 .saveCatalogue [] fun s => s.saveJob = none ∧
      (s.engine 0).state ≠ .fault ∧ 8 ≤ (s.busQueue 0).length) ∧
    (Meets lab 3 .saveCatalogue [] fun s => s.saveJob = none ∧ (s.engine 0).state ≠ .fault ∧
      ¬ (8 ≤ (s.busQueue 0).length ∨ ∀ p, s.record p ≠ none)) := by
  refine ⟨?_, ?_, ?_, ?_⟩ <;> decide +kernel
/-- A restart with teardowns in train, from a state. -/
def restarting (base : State) (scope : Scope) (teardowns : List Link) : State :=
  (base.setPart .starting).setRestart (some ⟨scope, teardowns⟩)
theorem witness_RestartAndDrain : (Meets lab 3 .restart [2] fun _ => True) ∧
    (Meets lab 3 .restart [1] fun _ => True) ∧ (Meets lab 3 .restart [0] fun _ => True) ∧
    (restarting lab .keep [0, 1]).restart = some ⟨.keep, [0, 1]⟩ ∧
    (1 : Link) ∈ ([0, 1] : List Link) ∧ (lab.slot 0).body ≠ .free ∧
    (restarting labQuiet .keep []).restart = some ⟨.keep, []⟩ ∧
    (restarting labQuiet .reload []).restart = some ⟨.reload, []⟩ ∧
    ((∀ i, (labQuiet.slot i).body = .free) ∧ ∀ p, labQuiet.record p = none) ∧
    (labQuiet.engine 0).state = .idle ∧
    ((labQuiet.setEngine 0 ⟨.fault, .none, .none, 0, ⟨0, []⟩⟩).engine 0).state = .fault := by
  refine ⟨?_, ?_, ?_, ?_, ?_, ?_, ?_, ?_, ?_, ?_, ?_⟩ <;> decide +kernel
/-- R108, R149: a link that goes DOWN during the drain leaves its session CLOSED, and the RESTART_TEARDOWN
that follows does nothing to it. -/
theorem test_break_in_drain : (ran (.lineBreak 0) (restarting lab .keep [0, 3])).session 0 = .closed ∧
    (later [.lineBreak 0, .restartTeardown 0 .bothHigh] (restarting lab .keep [0, 3])).restart =
      some ⟨.keep, [3]⟩ := by decide +kernel
theorem witness_LineGoesDownAndUp : (lab.link 0).line = .up ∧ lab.session 0 = .opened 7 ∧
    (lab.rightsOf 0).grace ≠ 0 ∧ ((lab.setRights 0 ⟨0, 0, 4, 0⟩).rightsOf 0).grace = 0 ∧
    lab.restart = none ∧
    ((restarting lab .keep [0]).restart = some ⟨.keep, [0]⟩ ∧ (0 : Link) ∈ ([0] : List Link) ∧
      ((restarting lab .keep [0]).link 0).line = .up ∧
      (restarting lab .keep [0]).session 0 = .opened 7) ∧
    lab.record 2 = some (work .read .queued (some ⟨3, 4⟩) 1) ∧
    ((lab.link 1).line = .up ∧ lab.session 1 = .suspended 8 6000) ∧
    (State.reset.link 0).line = .down := by
  refine ⟨?_, ?_, ?_, ?_, ?_, ?_, ?_, ?_, ?_⟩ <;> decide +kernel
/-- `lab` with the framer of L0 in a state, and frames in its request queue. -/
def framing (x : Framer) (queue : List Frame) : State :=
  lab.setLink 0 { lab.link 0 with framer := x, requestQueue := queue }
theorem witness_CharacterByFramerState : ((framing .hunt []).link 0).line = .up ∧
    ((framing .hunt []).link 0).framer = .hunt ∧
    ((framing (.length 1020) []).link 0).framer = .length 1020 ∧
    (2 ≤ (80 : Byte).toNat ∧ (80 : Byte).toNat ≤ 80) ∧ 80 < (81 : Byte).toNat ∧
    ((framing (.content 2 [] 1020) []).link 0).framer = .content 2 [] 1020 ∧
    ([] : List Byte).length + 1 < 2 + 2 ∧
    [1, 2] ++ (crcBytes [2, 1, 2]).take 1 ++ [byteAt (crcBytes [2, 1, 2]) 1] =
      1 :: 2 :: [] ++ crcBytes [2, 1, 2] ∧
    crcBytes [2, 1, 2] ≠ [0, 0] ∧
    (crcBytes [2, 1, 2]).length = 2 ∧
    ((framing .hunt []).link 0).requestQueue.length < 4 ∧
    4 ≤ ((framing .hunt (List.replicate 4 (frame .bye []))).link 0).requestQueue.length := by
  refine ⟨?_, ?_, ?_, ?_, ?_, ?_, ?_, ?_, ?_, ?_, ?_, ?_⟩ <;> decide +kernel
theorem witness_FramerRejectByRule : (lab.link 0).line = .up ∧
    ((framing (.length 1020) []).link 0).framer ≠ .hunt ∧
    ((framing (.content 2 [] 1020) []).link 0).framer = .content 2 [] 1020 ∧
    (lab.link 0).pendingReject = none ∧
    ((lab.setLink 0 { lab.link 0 with pendingReject := some (255, .gap) }).link 0).pendingReject =
      some (255, .gap) ∧
    ((lab.setLink 0 { lab.link 0 with outbound := List.replicate 6 ⟨1, .ok, []⟩ }).link
      0).placeAvailable = false ∧
    (lab.link 0).placeAvailable = true ∧ lab.waitingDone 0 = [] := by
  refine ⟨?_, ?_, ?_, ?_, ?_, ?_, ?_, ?_⟩ <;> decide +kernel
/-- `lab` with a frame in L0's outbound queue and on its transmitter. -/
def sending (chars : Option (List Byte)) (reject : Option (Nat × RejectReason)) : State :=
  lab.setLink 0 { lab.link 0 with
    outbound := [⟨1, .ok, []⟩], sending := chars, pendingReject := reject }
/-- L0 of `lab` with its outbound queue full, the head on the transmitter, and a BYE that waits. -/
def labFull : State :=
  lab.setLink 0 { lab.link 0 with
    outbound := List.replicate 6 ⟨1, .ok, []⟩, sending := some [0xB6], hold := false
    requestQueue := [frame .bye []] }
/-- R158, third race: the place freed is the intake's, and a reject that comes first waits. -/
theorem test_freed_place_kept : ((later [.frameSent 0, .characterReceived 0 0xB5, .badCharacter 0, .bye 0]
    labFull).link 0).outbound.map Response.status = List.replicate 6 .ok := by decide +kernel
theorem witness_FramesAreSent_race : (labFull.link 0).Lawful (labFull.session 0) ∧
    (labFull.link 0).sending = some [0xB6] ∧
    (labFull.link 0).outbound = ⟨1, .ok, []⟩ :: List.replicate 5 ⟨1, .ok, []⟩ ∧
    labFull.waitingDone 0 = [] ∧ (labFull.link 0).pendingReject = none ∧
    (labFull.link 0).requestQueue ≠ [] ∧ (labFull.link 0).restoreHold = none ∧
    (labFull.link 0).placeAvailable = false ∧ (lab.link 0).placeAvailable = true ∧
    (work .read .queued (some ⟨3, 4⟩) 1).destination = some 0 := by
  refine ⟨?_, ?_, ?_, ?_, ?_, ?_, ?_, ?_, ?_, ?_⟩ <;> decide +kernel
theorem witness_FramesAreSent :
    ((sending none none).link 0).Lawful ((sending none none).session 0) ∧
    ((sending (some [0xB6]) none).link 0).Lawful ((sending (some [0xB6]) none).session 0) ∧
    ((sending none none).link 0).outbound = ⟨1, .ok, []⟩ :: [] ∧
    ((sending none none).link 0).sending = none ∧ ((sending none none).link 0).line = .up ∧
    ((sending (some [0xB6]) none).link 0).sending = some [0xB6] ∧
    ((sending (some [0xB6]) (some (1, .gap))).link 0).pendingReject = some (1, .gap) ∧
    ((sending none none).setWaitingDone 0 [2]).waitingDone 0 = 2 :: [] ∧
    lab.record 2 = some (work .read .queued (some ⟨3, 4⟩) 1) := by
  refine ⟨?_, ?_, ?_, ?_, ?_, ?_, ?_, ?_, ?_⟩ <;> decide +kernel
theorem witness_OperationPlans : 0 < 1 ∧ hub.snapshot.offsetWidth = 0 ∧ memory.snapshot.offsetWidth = 1 ∧
    storeSnapshot.offsetWidth = 2 ∧
    runElements firstSegment.elements acks = some ⟨firstSegment.elements, 6, false, []⟩ ∧
    BusElement.pulse ∉ firstSegment.elements ∧
    runElements firstSegment.elements [true] = some ⟨[.start, .send 0xA0, .stop], 0, true, []⟩ := by
  decide
theorem witness_EngineTakesWork : (lab.engine 1).state = .idle ∧ lab.busQueue 1 = 2 :: [] ∧
    lab.record 2 = some (work .read .queued (some ⟨3, 4⟩) 1) ∧ lab.load = none ∧
    (State.reset.engine 0).state = .idle ∧ State.reset.load = some firstLoad := by
  refine ⟨?_, ?_, ?_, ?_, ?_, ?_⟩ <;> decide +kernel
/-- `lab` with the engine of B1 at work on the READ, in a state. -/
def reading (x : EngineState) : State :=
  (lab.setRecord 2 (some (work .read .active (some ⟨3, 4⟩) 1))).setEngine 1
    ⟨x, .none, .record 2, 0, ⟨0, []⟩⟩
theorem witness_ReadOperationEnds :
    (reading (.active (.lineWait .operation))).underway 1 =
      some (.operation, readPlan memory.snapshot 44 8) ∧
    ((reading (.active (.lineWait .operation))).engine 1).work = .record 2 ∧
    (reading (.active (.lineWait .operation))).record 2 =
      some (work .read .active (some ⟨3, 4⟩) 1) ∧
    (runElements (readPlan memory.snapshot 44 8).elements (List.replicate 67 false)).map
      (·.refused) = some false ∧
    (runElements (readPlan memory.snapshot 44 8).elements [false, true]).map (·.refused) =
      some true := by
  and_intros <;> decide +kernel
theorem witness_WriteSegmentEnds :
    ((writing (.active (.lineWait .operation))).engine 0).work = .record 1 ∧
    (writing (.active (.lineWait .operation))).record 1 = some (work .write .active (some ⟨1, 1⟩) 0) ∧
    (writing (.active (.lineWait .operation))).underway 0 = some (.operation, firstSegment) ∧
    (work .write .active (some ⟨1, 1⟩) 0).kind ≠ .read ∧
    ((runElements firstSegment.elements [true]).map fun x => (x.refused, x.acknowledged)) =
      some (true, 0) ∧
    ((runElements firstSegment.elements [false, true]).map fun x => (x.refused, x.acknowledged)) =
      some (true, 1) ∧ 1 ≤ 1 + memory.snapshot.offsetWidth ∧
    ((runElements firstSegment.elements [false, false, false, false, false, true]).map fun x =>
      (x.refused, x.acknowledged)) = some (true, 1 + memory.snapshot.offsetWidth + 3) ∧
    (runElements firstSegment.elements acks).map (·.refused) = some false ∧
    0 < memory.snapshot.pollLimit ∧ hub.snapshot.pollLimit = 0 := by
  and_intros <;> decide +kernel
theorem witness_PollsAndRetryWaits :
    (writing (.active (.onBus (.poll 990) (pollPlan memory.snapshot)))).underway 0 =
      some (.poll 990, pollPlan memory.snapshot) ∧
    (runElements (pollPlan memory.snapshot).elements [false]).map (·.refused) = some false ∧
    (runElements (pollPlan memory.snapshot).elements [true]).map (·.refused) = some true ∧
    ((writing (.active (.pollWait 1001 990))).engine 0).work = .record 1 ∧
    (writing (.active (.pollWait 1001 990))).record 1 =
      some (work .write .active (some ⟨1, 1⟩) 0) ∧
    ((writing (.active (.pollWait 1001 990))).engine 0).state = .active (.pollWait 1001 990) ∧
    ((writing (.active (.retryWait 1001))).engine 0).state = .active (.retryWait 1001) := by
  and_intros <;> decide +kernel
theorem witness_StretchAndRecovery :
    (writing (.active (.lineWait .operation))).underway 0 = some (.operation, firstSegment) ∧
    ((writing (.active (.lineWait .operation))).engine 0).work = .record 1 ∧
    (writing (.active (.lineWait .operation))).record 1 = some (work .write .active (some ⟨1, 1⟩) 0) ∧
    StretchedAt firstSegment.elements ⟨7, acks⟩ ⟨firstSegment.elements.take 7, 6, false, []⟩ ∧
    StretchedAt firstSegment.elements ⟨6, acks.take 5 ++ [true]⟩
      ⟨firstSegment.elements.take 7, 5, true, []⟩ ∧
    (StretchedAt [.start, .send 0xA1, .receive false, .stop] ⟨2, false :: bitsOf 0xC3⟩
        ⟨[.start, .send 0xA1], 1, false, [0xC3]⟩ ∧
      StretchedAt [.start, .send 0xA1, .receive false, .stop] ⟨2, false :: (bitsOf 0xC3).take 7⟩
        ⟨[.start, .send 0xA1], 1, false, []⟩) ∧
    ((writing (.recovering .stretch)).engine 0).state = .recovering .stretch ∧
    ((writing (.recovering (.lineCheck .operation))).engine 0).state =
      .recovering (.lineCheck .operation) ∧
    ((writing (.active (.lineWait .operation))).engine 0).state = .active (.lineWait .operation) ∧
    runRecovery [.bothHigh, .bothHigh] = some ⟨[.release, .stop], .success⟩ := by
  and_intros <;> first | decide +kernel | exact runToStretch_iff.mp (by decide +kernel)
theorem witness_FaultEntryByRule :
    ((writing (.active (.lineWait .operation))).engine 0).state = .active (.lineWait .operation) ∧
    ((writing (.active (.lineWait .operation))).engine 0).work = .record 1 ∧
    (writing (.active (.lineWait .operation))).record 1 = some (work .write .active (some ⟨1, 1⟩) 0) ∧
    ((loading .signature).engine 0).work = .load ∧
    (loading .signature).load = some ⟨.signature, [], []⟩ := by
  refine ⟨?_, ?_, ?_, ?_, ?_⟩ <;> decide +kernel
/-- `labFault` with a BUS-RESTORE of B0 in progress for L3. -/
def labRestoring (reserved : Bool) : State :=
  (lab.setEngine 0 ⟨.recovering .restore, .stretch, .restore, 0, ⟨0, []⟩⟩).setLink 3 { lab.link 3 with
    restoreHold := some (0, 0x21), reserved := reserved }
theorem witness_BusRestoreByRule : (Meets labFault 3 .busRestore [2] fun _ => 1 < (byteAt [2] 0).toNat) ∧
    (Meets labFault 3 .busRestore [0] fun s => (s.engine 0).state = .fault) ∧
    (Meets lab 3 .busRestore [1] fun s => (s.engine 1).state ≠ .fault) ∧
    (((labRestoring true).engine 0).state = .recovering .restore ∧
      ((labRestoring true).link 3).restoreHold = some (0, 0x21) ∧
      ∀ k, k ≠ 3 → ((labRestoring true).link k).restoreHold = none) ∧
    (((labRestoring false).engine 0).state = .recovering .restore ∧
      ((labRestoring false).link 3).restoreHold = some (0, 0x21) ∧
      ∀ k, k ≠ 3 → ((labRestoring false).link k).restoreHold = none) ∧
    runRecovery [.bothHigh, .bothHigh] = some ⟨[.release, .stop], .success⟩ ∧
    runRecovery [.bothHigh, .dataLow] = some ⟨[.release, .stop], .dataFailed⟩ := by
  refine ⟨?_, ?_, ?_, ?_, ?_, ?_, ?_⟩ <;> decide +kernel
theorem witness_FormatsReadBack : memory.valid = true ∧
    ((framing .hunt (List.replicate 3 (frame .bye []))).link 0).line = .up ∧
    ((framing .hunt (List.replicate 3 (frame .bye []))).link 0).framer = .hunt ∧
    ((framing .hunt (List.replicate 3 (frame .bye []))).link 0).requestQueue.length < 4 ∧
    (List.replicate 78 (0 : Byte)).length ≤ 78 := by
  refine ⟨?_, ?_, ?_, ?_, ?_⟩ <;> decide +kernel
/-- A step of `lab`, on its empty queue, is a tick. -/
theorem lab_step : step lab = .next { lab with now := lab.now + 1 } := rfl
/-- A step on `lab`, and the laws it must keep, which hold there. -/
theorem witness_LeaseLawsKept : step lab = .next { lab with now := lab.now + 1 } ∧
    lab.HolderLaw ∧ lab.OneSlotLaw ∧ lab.GenerationLaw := by
  refine ⟨lab_step, lab_holderLaw, ?_, by decide +kernel⟩
  have key : ∀ i, ∀ l ∈ (lab.slot i).body.owner?, ∀ j, ∀ k ∈ (lab.slot j).body.owner?, l = k →
      (lab.slot i).body.target? = (lab.slot j).body.target? → i = j := by decide +kernel
  intro i j l t hi hj ti tj
  exact key i l hi j l hj rfl (by rw [ti, tj])
/-- The law of the wait queues from its parts that can be evaluated, where no restart and no load is in
progress. -/
theorem waitLaw_of {s : State}
    (head : ∀ t, (s.entry t).waitQueue.Nodup ∧
      (∀ i, i ∈ (s.entry t).waitQueue ↔ (s.slot i).body.waitsOn t = true) ∧
      ∀ i ∈ (s.entry t).waitQueue.tail, (s.slot i).body.stateName = .waiting)
    (count : ∀ t, ∀ f ∈ (s.entry t).body.fields?, s.waitingCount t ≤ f.qlim)
    (kept : ∀ i, ∀ t ∈ (s.slot i).body.target?, (s.entry t).body.code ≠ 0 ∧
      ((s.entry t).body.code = 2 → (s.slot i).body.stateName = .ending))
    (hr : s.restart = none) (hl : s.load = none) : s.WaitLaw := by
  refine ⟨fun t => ⟨(head t).1, (head t).2.1, (head t).2.2, ?_⟩, fun h => absurd hr h,
    fun h => absurd hl h⟩
  cases h : (s.entry t).body with
  | present f => exact count t f (by rw [h]; rfl)
  | retiring f => exact fun i hi => (kept i t hi).2 (by rw [h]; rfl)
  | absent => exact fun i hi => absurd (by rw [h]; rfl) (kept i t hi).1
theorem lab_waitLaw : lab.WaitLaw :=
  waitLaw_of (by decide +kernel) (by decide +kernel) (by decide +kernel) (by decide +kernel)
    (by decide +kernel)
/-- `lab` with S6 of L2 waiting for EXCLUSIVE on T0, behind S2 of L3. -/
def labQueued : State :=
  (lab.setSlot 6 ⟨1, .waiting ⟨2, 0, .exclusive, 4000, 2000⟩⟩).setWaitQueue 0 [2, 6]
theorem witness_TeardownLeavesNothing : labQueued.TransactionLaw ∧ labQueued.WaitLaw ∧
    ((labQueued.slot 2).body = .waiting ⟨3, 0, .shared, 4000, 2000⟩ ∧
      (labQueued.entry 0).waitQueue.head? = some 2) ∧
    (((labQueued.teardown 3).entry 0).waitQueue = 6 :: [] ∧
      ((labQueued.teardown 3).slot 6).body = .waiting ⟨2, 0, .exclusive, 4000, 2000⟩) ∧
    (labQueued.slot 4).body = .held (lease 3 1 .shared (some 3000) none) :=
  ⟨transactionLaw_of (by decide +kernel) (by decide +kernel) (by decide +kernel),
    waitLaw_of (by decide +kernel) (by decide +kernel) (by decide +kernel) (by decide +kernel)
      (by decide +kernel), by decide +kernel, by decide +kernel, by decide +kernel⟩
theorem witness_QueueAndCatalogueLawsKept :
    step lab = .next { lab with now := lab.now + 1 } ∧ lab.WaitLaw ∧ lab.CatalogueLaw := by
  refine ⟨lab_step, lab_waitLaw, ?_⟩
  have valid : ∀ t, ∀ f ∈ (lab.entry t).body.fields?, f.valid = true ∧
      ∀ u, ∀ g ∈ (lab.entry u).body.fields?, f.bus = g.bus → f.address = g.address → t = u := by
    decide +kernel
  exact ⟨fun t f h => (valid t f h).1, fun t u f g hf hg hb ha => (valid t f hf).2 u g hg hb ha,
    by decide +kernel⟩
theorem witness_SessionAndLinkLawsKept :
    step lab = .next { lab with now := lab.now + 1 } ∧ lab.NoticeLaw ∧ lab.ClosedLaw ∧ lab.LinkLaw := by
  refine ⟨lab_step, by decide +kernel, ?_, by decide +kernel⟩
  intro l hl
  have : ∀ k, (lab.session k).isClosed = false := by decide +kernel
  rw [this l] at hl
  cases hl
theorem witness_TransactionLawKept :
    step lab = .next { lab with now := lab.now + 1 } ∧ lab.EngineLaw ∧ lab.TransactionLaw :=
  ⟨lab_step, by decide +kernel, lab_transactionLaw⟩

end Sys2Proof.Tests
end

/-! The lease requests: OPEN granted at once (R9), the handle checks (R3), RELEASE (R16) and CHANGE-MODE
(R18, R19). First what the intake, the handle checks and each request's owner do, said once; then the
statements, put together from these. -/

namespace Sys2Proof.Machine

variable {s : State} {l : Link} {r : Request} {f : Frame} {rest : List Frame} {i : SlotIx}
  {body : List Byte}

/-! ### An admitted request goes to its owner (R157) -/

theorem exec_openLease (ha : s.Admits l .openLease f rest) :
    exec (.openLease l) s = .next (serveOpen l f (s.taking l rest)) :=
  congrArg _ (serve_admits ha serveOpen)

theorem exec_renew (ha : s.Admits l .renew f rest) :
    exec (.renew l) s = .next (serveRenew l f (s.taking l rest)) :=
  congrArg _ (serve_admits ha serveRenew)

theorem exec_release (ha : s.Admits l .release f rest) :
    exec (.release l) s = .next (serveRelease l f (s.taking l rest)) :=
  congrArg _ (serve_admits ha serveRelease)

theorem exec_changeMode (ha : s.Admits l .changeMode f rest) :
    exec (.changeMode l) s = .next (serveChangeMode l f (s.taking l rest)) :=
  congrArg _ (serve_admits ha serveChangeMode)

theorem exec_read (ha : s.Admits l .read f rest) :
    exec (.read l) s = .next (serveRead l f (s.taking l rest)) :=
  congrArg _ (serve_admits ha serveRead)

theorem exec_write (ha : s.Admits l .write f rest) :
    exec (.write l) s = .next (serveWrite l f (s.taking l rest)) :=
  congrArg _ (serve_admits ha serveWrite)

/-! ### Arguments read from a body -/

theorem slotOf_eq_some_iff {b : Byte} : slotOf b = some i ↔ i.val = b.toNat := by
  by_cases hb : b.toNat < 48
  · simp [slotOf, hb, Fin.ext_iff, eq_comm]
  · have : i.val ≠ b.toNat := by omega
    simp [slotOf, hb, this]

theorem modeOf_eq_none {b : Byte} (h : 1 < b.toNat) : modeOf b = none := by
  have h0 : b ≠ 0 := by rintro rfl; simp at h
  have h1 : b ≠ 1 := by rintro rfl; simp at h
  rw [modeOf, if_neg h0, if_neg h1]

theorem exists_modeOf {b : Byte} (h : b.toNat ≤ 1) : ∃ m, modeOf b = some m := by
  have hb : b = 0 ∨ b = 1 := by
    rcases Nat.le_one_iff_eq_zero_or_eq_one.mp h with h | h
    · exact .inl (BitVec.eq_of_toNat_eq h)
    · exact .inr (BitVec.eq_of_toNat_eq h)
  rcases hb with rfl | rfl
  · exact ⟨.shared, rfl⟩
  · exact ⟨.exclusive, rfl⟩

/-! ### The handle checks (R3) -/

/-- A handle that names a slot is checked against that slot. -/
theorem checkHandle_of_names (hn : s.Names body i) (l : Link) :
    s.checkHandle l body = s.checkSlot l i (s.slot i).generation := by
  obtain ⟨hi, hg⟩ := hn
  simp only [State.checkHandle, slotOf_eq_some_iff.mpr hi, hg]

theorem checkSlot_not_owned (h : (s.slot i).body.owner? ≠ some l) (g : Nat) :
    s.checkSlot l i g = .refused .stale := by
  unfold State.checkSlot
  split
  · cases hb : (s.slot i).body <;> simp_all [SlotBody.owner?]
  · rfl

/-- R3, test 1: no slot of the session has the index and the generation of the handle. -/
theorem checkHandle_eq_stale (h : ∀ i, s.Names body i → (s.slot i).body.owner? ≠ some l) :
    s.checkHandle l body = .refused .stale := by
  unfold State.checkHandle
  split
  · rfl
  · rename_i i hi
    by_cases hg : (s.slot i).generation = wordAt body 1
    · exact checkSlot_not_owned (h i ⟨slotOf_eq_some_iff.mp hi, hg⟩) _
    · simp only [State.checkSlot, hg, if_false]

theorem checkHandle_eq_ended {e : EndingSlot} (hn : s.Names body i)
    (hb : (s.slot i).body = .ending e) (ho : e.owner = some l) :
    s.checkHandle l body = .refused .ended := by
  simp [checkHandle_of_names hn, State.checkSlot, hb, ho]

theorem checkHandle_eq_waiting {w : WaitingSlot} (hn : s.Names body i)
    (hb : (s.slot i).body = .waiting w) (ho : w.owner = l) :
    s.checkHandle l body = .waiting i w := by
  simp [checkHandle_of_names hn, State.checkSlot, hb, ho]

theorem checkHandle_eq_held {h : HeldSlot} (hh : s.NamesHeld l body i h) :
    s.checkHandle l body = .held i h := by
  obtain ⟨hn, hb, ho⟩ := hh
  simp [checkHandle_of_names hn, State.checkSlot, hb, ho]

/-- The handle checks look at the lease table alone. -/
@[simp] theorem checkHandle_taking (s : State) (l k : Link) (rest : List Frame) (body : List Byte) :
    (s.taking l rest).checkHandle k body = s.checkHandle k body := rfl

/-- The status with which a request is refused for what the handle checks left: a WAITING slot is
NOTHELD to every request but RELEASE (R3, R13, R16). -/
def HandleCheck.refusal (r : Request) : HandleCheck → Option Status
  | .refused status => some status
  | .waiting _ _ => if r = .release then none else some .notheld
  | .held _ _ => none

section Refusal

variable {st : Status}

/-- A refusal comes from the checks themselves, or from a WAITING slot. -/
theorem HandleCheck.eq_of_refusal {c : HandleCheck} (h : c.refusal r = some st) :
    c = .refused st ∨ r ≠ .release ∧ st = .notheld ∧ ∃ i w, c = .waiting i w := by
  cases c with
  | refused status => exact .inl (by cases h; rfl)
  | waiting i w =>
    by_cases hr : r = .release
    · simp [refusal, hr] at h
    · simp only [refusal, hr, if_false, Option.some.injEq] at h
      exact .inr ⟨hr, h.symm, i, w, rfl⟩
  | held i h' => cases h

theorem serveRenew_refusal (hterm : wordAt f.body 3 ≤ 60000)
    (h : (s.checkHandle l f.body).refusal .renew = some st) :
    serveRenew l f s = s.answer l f.tag st [] := by
  rcases HandleCheck.eq_of_refusal h with hc | ⟨-, rfl, i, w, hc⟩ <;>
    simp [serveRenew, Nat.not_lt.mpr hterm, hc]

theorem serveRelease_refusal (h : (s.checkHandle l f.body).refusal .release = some st) :
    serveRelease l f s = s.answer l f.tag st [] := by
  rcases HandleCheck.eq_of_refusal h with hc | ⟨hr, -⟩
  · simp [serveRelease, hc]
  · exact absurd rfl hr

theorem serveChangeMode_refusal (hmode : (byteAt f.body 3).toNat ≤ 1) (hwait : wordAt f.body 4 ≤ 6000)
    (h : (s.checkHandle l f.body).refusal .changeMode = some st) :
    serveChangeMode l f s = s.answer l f.tag st [] := by
  obtain ⟨m, hm⟩ := exists_modeOf hmode
  rcases HandleCheck.eq_of_refusal h with hc | ⟨-, rfl, i, w, hc⟩ <;>
    simp [serveChangeMode, hm, Nat.not_lt.mpr hwait, hc]

/-- READ and WRITE have one course. -/
theorem serveTransaction_refusal (kind : TxKind) (count : Nat) (data : List Byte)
    (h : (s.checkHandle l f.body).refusal r = some st) :
    serveTransaction kind l f count data s = s.answer l f.tag st [] := by
  rcases HandleCheck.eq_of_refusal h with hc | ⟨-, rfl, i, w, hc⟩ <;>
    simp [serveTransaction, hc]

/-- R3: a request that names a lease and that its handle checks refuse answers their status, once its own
fields are in range. -/
theorem exec_refusal (hr : r ∈ [Request.renew, .release, .changeMode, .read, .write])
    (ha : s.Admits l r f rest) (hterm : r = .renew → wordAt f.body 3 ≤ 60000)
    (hmode : r = .changeMode → (byteAt f.body 3).toNat ≤ 1 ∧ wordAt f.body 4 ≤ 6000)
    (h : (s.checkHandle l f.body).refusal r = some st) :
    exec (r.command l) s = .next ((s.taking l rest).answer l f.tag st []) := by
  rw [← checkHandle_taking s l l rest] at h
  simp only [List.mem_cons, List.not_mem_nil, or_false] at hr
  rcases hr with rfl | rfl | rfl | rfl | rfl
  · exact (exec_renew ha).trans (congrArg _ (serveRenew_refusal (hterm rfl) h))
  · exact (exec_release ha).trans (congrArg _ (serveRelease_refusal h))
  · obtain ⟨hm, hw⟩ := hmode rfl
    exact (exec_changeMode ha).trans (congrArg _ (serveChangeMode_refusal hm hw h))
  · exact (exec_read ha).trans (congrArg _ (serveTransaction_refusal _ _ _ h))
  · exact (exec_write ha).trans (congrArg _ (serveTransaction_refusal _ _ _ h))

end Refusal

/-- Settles O9: what the handle checks leave in each case is a refusal of the request. -/
theorem handleChecks : Obligations.HandleChecks := by
  intro s l r f rest hr ha hterm hmode
  refine ⟨fun h => ?_, fun i e hn hb ho => ?_, fun i w hn hb ho hne => ?_⟩ <;>
    refine exec_refusal hr ha hterm hmode ?_
  · rw [checkHandle_eq_stale h]; rfl
  · rw [checkHandle_eq_ended hn hb ho]; rfl
  · rw [checkHandle_eq_waiting hn hb ho]; simp [HandleCheck.refusal, hne]

/-! ### RELEASE (R16) -/

theorem serveRelease_waiting {w : WaitingSlot} (hc : s.checkHandle l f.body = .waiting i w) :
    serveRelease l f s = (if (s.entry w.target).waitQueue.head? = some i
      then (s.vacate i w.target).grantPass w.target
      else s.vacate i w.target).answer l f.tag .ok [] := by
  simp [serveRelease, hc, State.endWaiting, State.grantPassIf, State.isHead]

theorem serveRelease_held {h : HeldSlot} (hc : s.checkHandle l f.body = .held i h) :
    serveRelease l f s =
      if h.inFlight = none then ((s.vacate i h.target).grantPass h.target).answer l f.tag .ok []
      else s.answer l f.tag .inflight [] := by
  cases hf : h.inFlight <;> simp [serveRelease, hc, hf]

/-- Settles O11, by what the handle checks leave for each state of the slot. The slot that leaves
(`State.vacate`) is written out in the statement; the queue it leaves is the same before and after it
becomes FREE. -/
theorem releaseByState : Obligations.ReleaseByState := by
  intro s l f rest i ha hn u left
  refine ⟨fun w hb ho => ?_, fun h hb ho => ?_, fun e hb ho => ?_⟩ <;>
    refine (exec_release ha).trans (congrArg _ ?_)
  · exact serveRelease_waiting (checkHandle_eq_waiting hn hb ho)
  · exact serveRelease_held (checkHandle_eq_held ⟨hn, hb, ho⟩)
  · refine serveRelease_refusal ?_
    rw [checkHandle_taking, checkHandle_eq_ended hn hb ho]; rfl

/-! ### CHANGE-MODE to SHARED (R18, R19) -/

theorem serveChangeMode_badreq (h : 1 < (byteAt f.body 3).toNat ∨ 6000 < wordAt f.body 4) :
    serveChangeMode l f s = s.answer l f.tag .badreq [] := by
  unfold serveChangeMode
  rcases h with hmode | hwait
  · simp [modeOf_eq_none hmode]
  · split
    · rfl
    · simp [hwait]

theorem serveChangeMode_inflight {h : HeldSlot} (hmode : (byteAt f.body 3).toNat ≤ 1)
    (hwait : wordAt f.body 4 ≤ 6000) (hc : s.checkHandle l f.body = .held i h)
    (hf : h.inFlight ≠ none) : serveChangeMode l f s = s.answer l f.tag .inflight [] := by
  obtain ⟨m, hm⟩ := exists_modeOf hmode
  simp [serveChangeMode, hm, Nat.not_lt.mpr hwait, hc, Option.isSome_iff_ne_none.mpr hf]

theorem serveChangeMode_shared {h : HeldSlot} (hmode : byteAt f.body 3 = 0)
    (hwait : wordAt f.body 4 ≤ 6000) (hc : s.checkHandle l f.body = .held i h)
    (hf : h.inFlight = none) :
    serveChangeMode l f s = (s.changeToShared i h).answer l f.tag .ok [] := by
  simp [serveChangeMode, modeOf, hmode, Nat.not_lt.mpr hwait, hc, hf]

theorem changeToShared_exclusive {h : HeldSlot} (hm : h.mode = .exclusive) :
    s.changeToShared i h = (s.setBody i (.held { h with mode := .shared })).grantPass h.target := by
  simp [State.changeToShared, hm]

/-- R19: a pending upgrade is withdrawn. -/
theorem changeToShared_upgrade {h : HeldSlot} {d : Nat} (hm : h.mode = .shared)
    (hu : h.upgrade = some d) :
    s.changeToShared i h = ((s.setBody i (.held { h with upgrade := none })).setWaitQueue h.target
      ((s.entry h.target).waitQueue.filter fun j => decide (j ≠ i))).grantPass h.target := by
  simp [State.changeToShared, hm, hu, State.leaveQueue, State.setBody_eq]

theorem changeToShared_shared {h : HeldSlot} (hm : h.mode = .shared) (hu : h.upgrade = none) :
    s.changeToShared i h = s := by
  simp [State.changeToShared, hm, hu]

/-- Settles O12, by the mode and the upgrade of the slot. -/
theorem changeModeToShared : Obligations.ChangeModeToShared := by
  intro s l f rest ha u
  rw [exec_changeMode ha]
  refine ⟨fun h => congrArg _ (serveChangeMode_badreq h), fun i h hh hwait => ?_⟩
  have hc : u.checkHandle l f.body = .held i h := checkHandle_eq_held hh
  refine ⟨fun hmode hf => congrArg _ (serveChangeMode_inflight hmode hwait hc hf), fun hmode hf => ?_⟩
  refine congrArg _ ((serveChangeMode_shared hmode hwait hc hf).trans
    (congrArg (State.answer · l f.tag .ok []) ?_))
  cases hm : h.mode with
  | exclusive => exact changeToShared_exclusive hm
  | shared =>
    cases hu : h.upgrade with
    | some d => exact (changeToShared_upgrade hm hu).trans (by rw [hm]; rfl)
    | none => exact changeToShared_shared hm hu

/-! ### OPEN granted at once (R8, R9) -/

/-- R8.5: the slot OPEN takes is the lowest-numbered FREE one. -/
theorem lowestFree_eq_some (hf : (s.slot i).body = .free)
    (hlow : ∀ j, j < i → (s.slot j).body ≠ .free) : s.lowestFree = some i := by
  refine List.find?_eq_some_iff_getElem.mpr ⟨by simpa using hf, i, by simp [slotIndices], ?_, ?_⟩
  · simp [slotIndices]
  · intro j hj
    simpa [slotIndices] using hlow ⟨j, by omega⟩ hj

theorem ownsOn_iff (s : State) (l : Link) (t : EntryIx) : s.ownsOn l t = true ↔
    ∃ i, (s.slot i).body.owner? = some l ∧ (s.slot i).body.target? = some t := by
  simp [State.ownsOn, slotIndices]

section Open

variable {a : OpenArgs} {fields : TargetFields}

/-- R8: an OPEN that no check refuses has the rights for its mode, no slot on the target yet, and a slot
left in its quota. -/
theorem openRefusal_none_passes (ht : (s.entry a.target).body = .present fields)
    (h : s.openRefusal l a = none) : s.permits l fields.cls a.mode = true ∧
      s.ownsOn l a.target = false ∧ s.slotCount l < (s.rightsOf l).quota := by
  simp only [State.openRefusal, ht] at h
  split at h
  · cases h
  rename_i hperm
  split at h
  · cases h
  rename_i hown
  split at h
  · cases h
  rename_i hquota
  exact ⟨by simpa using hperm, Bool.eq_false_iff.mpr fun ho => hown ((ownsOn_iff s l _).mp ho),
    Nat.lt_of_not_le hquota⟩

theorem serveOpen_granted (ho : openArgs f.body = some a)
    (ht : (s.entry a.target).body = .present fields) (hr : s.openRefusal l a = none)
    (hq : (s.entry a.target).waitQueue = []) (hc : s.compatible a.target a.mode = true)
    (hi : s.lowestFree = some i) :
    serveOpen l f s = s.openGranted l f.tag a i (requestedTerm fields a.term) := by
  obtain ⟨hperm, hown, hquota⟩ := openRefusal_none_passes ht hr
  simp [serveOpen, ho, State.admitOpen, ht, hperm, hown, Nat.not_le.mpr hquota, hi,
    State.grantableAtOnce, hq, hc]

/-- R9, R12: a lease granted now has its lapse warning due now where the term is not above the warn time
of its target, and the warning is then given. -/
theorem warnIfDue_granted (ht : (s.entry a.target).body = .present fields) (term g : Nat)
    {due : Bool} (hdue : due = decide (0 < fields.warnTime ∧ term ≤ fields.warnTime * 10)) :
    (s.setSlot i ⟨g, .held (grantedSlot l a.target a.mode term s.now)⟩).warnIfDue i =
      let v := s.setSlot i ⟨g, .held { grantedSlot l a.target a.mode term s.now with
        lapseWarned := due }⟩
      if due then v.offerNotice l ⟨.handle i.val g, .lapsing (term / 10)⟩ else v := by
  have hwarn : ∀ x, (s.setSlot i x).warnMs a.target = fields.warnTime * 10 := fun x => by
    simp [State.warnMs, ht, EntryBody.fields?, Config.unitMs]
  cases due with
  | true =>
    have := of_decide_eq_true hdue.symm
    simp [State.warnIfDue, grantedSlot, hwarn, this, State.setBody_eq, State.slotSubject, Config.unitMs]
  | false =>
    have := of_decide_eq_false hdue.symm
    simp [State.warnIfDue, grantedSlot, hwarn, this]

/-- R9: the whole state that a grant at once leaves, with its answer. -/
theorem openGranted_eq (ht : (s.entry a.target).body = .present fields) (tag : Byte) (term : Nat)
    {due : Bool} (hdue : due = decide (0 < fields.warnTime ∧ term ≤ fields.warnTime * 10))
    {g : Nat} (hg : g = nextGeneration (s.slot i).generation) :
    s.openGranted l tag a i term =
      let v := s.setSlot i ⟨g, .held { grantedSlot l a.target a.mode term s.now with
        lapseWarned := due }⟩
      (if due then v.offerNotice l ⟨.handle i.val g, .lapsing (term / 10)⟩ else v).answer l tag .ok
        (handleBytes i g ++ wordBytes (term / 10)) := by
  simp only [State.openGranted, State.leaveFree, ← hg, warnIfDue_granted ht term g hdue,
    State.slot_setSlot_self, Config.unitMs]

end Open

/-- Settles O6: the checks of OPEN pass, and the grant gives its warning where it is due. -/
theorem openGranted : Obligations.OpenGranted := by
  intro s l f rest a fields i ha ho ht hr hq hc hf hlow term due g v
  have ht' : ((s.taking l rest).entry a.target).body = .present fields := ht
  have hserve : serveOpen l f (s.taking l rest) = (s.taking l rest).openGranted l f.tag a i term :=
    serveOpen_granted ho ht' hr hq hc (lowestFree_eq_some hf hlow)
  rw [exec_openLease ha, hserve]
  exact congrArg _ (openGranted_eq ht' f.tag term rfl rfl)

end Sys2Proof.Machine

/-! The grant arbiter: compatibility with a holder set and the immediate-grant test (R34, R35), and one
turn of the grant pass (R37, R38, R39). First what the holder set is by its members, what a grant leaves,
and how a pass takes its turn at the head of a queue; then the statements, put together from these. -/

namespace Sys2Proof.Machine

variable {s : State} {t : EntryIx} {i : SlotIx}

/-! ### The holder set by its members (R27, R34, R35) -/

theorem mem_holders {j : SlotIx} {n : Mode} :
    (j, n) ∈ s.holders t ↔ (s.slot j).body.holding? = some (t, n) := by
  unfold State.holders
  rw [List.mem_filterMap]
  constructor
  · rintro ⟨k, -, hk⟩
    split at hk
    · split at hk
      · cases hk; subst_vars; assumption
      · cases hk
    · cases hk
  · exact fun h => ⟨j, List.mem_finRange j, by simp [h]⟩

/-- R27: each slot of the table gives the holder set at most one member, and that member names the slot;
so no slot stands in it twice. -/
theorem nodup_holders_fst (s : State) (t : EntryIx) : ((s.holders t).map Prod.fst).Nodup := by
  rw [List.Nodup, List.pairwise_map, State.holders, List.pairwise_filterMap]
  exact (List.nodup_finRange 48).imp fun hjk x hx y hy => by grind

theorem compatible_shared_iff : s.compatible t .shared = true ↔
    ∀ j n, (s.slot j).body.holding? = some (t, n) → n = .shared := by
  simp [State.compatible, ← mem_holders]

theorem compatible_exclusive_iff : s.compatible t .exclusive = true ↔
    ∀ j n, (s.slot j).body.holding? ≠ some (t, n) := by
  simp [State.compatible, List.eq_nil_iff_forall_not_mem, ← mem_holders]

/-- A holder set has no slot twice, so its list is `[i]` when its only member is `i`. -/
theorem onlyHolder_iff : s.onlyHolder t i = true ↔
    ∀ j, (∃ n, (s.slot j).body.holding? = some (t, n)) ↔ j = i := by
  rw [State.onlyHolder, decide_eq_true_iff, ← List.perm_singleton,
    List.perm_ext_iff_of_nodup (nodup_holders_fst s t) (List.nodup_singleton i)]
  simp [mem_holders]

theorem grantableAtOnce_iff {m : Mode} : s.grantableAtOnce t m = true ↔
    (s.entry t).waitQueue = [] ∧ s.compatible t m = true := by
  simp [State.grantableAtOnce]

/-- Settles O18: each test says of the members of the holder set what it says of their list. -/
theorem compatibilityByHolders : Obligations.CompatibilityByHolders := fun _ _ _ _ =>
  ⟨compatible_shared_iff, compatible_exclusive_iff, onlyHolder_iff, grantableAtOnce_iff⟩

/-! ### What a grant leaves (R12, R38) -/

/-- A notice touches the notice unit alone, so it may be given before or after a slot is written. -/
theorem setSlot_offerNotice (s : State) (i : SlotIx) (x : Slot) (l : Link) (n : Notice) :
    (s.offerNotice l n).setSlot i x = (s.setSlot i x).offerNotice l n := by
  unfold State.offerNotice
  simp only [State.setSlot_frame]
  split <;> rfl

@[simp] theorem warnMs_setSlot (s : State) (i : SlotIx) (x : Slot) (t : EntryIx) :
    (s.setSlot i x).warnMs t = s.warnMs t := rfl

@[simp] theorem warnMs_offerNotice (s : State) (l : Link) (n : Notice) (t : EntryIx) :
    (s.offerNotice l n).warnMs t = s.warnMs t := by
  simp only [State.warnMs, State.offerNotice_frame]

@[simp] theorem warnMs_setWaitQueue (s : State) (t : EntryIx) (q : List SlotIx) :
    (s.setWaitQueue t q).warnMs t = s.warnMs t := by
  simp only [State.warnMs, State.setWaitQueue_eq, State.entry_setEntry_self]

theorem warnIfDue_of_held {h : HeldSlot} (hb : (s.slot i).body = .held h)
    (hw : h.lapseWarned = false) : s.warnIfDue i =
      if 0 < s.warnMs h.target ∧ h.termDeadline - s.now ≤ s.warnMs h.target then
        (s.setBody i (.held { h with lapseWarned := true })).offerNotice h.owner
          ⟨s.slotSubject i, .lapsing ((h.termDeadline - s.now) / 10)⟩
      else s := by
  simp [State.warnIfDue, hb, hw, Config.unitMs]

/-- R38: the slot granted has the whole of its term before it, so its warning is due now where the term
is not above the warn time. -/
theorem grantWaiting_eq (s : State) (i : SlotIx) (w : WaitingSlot) :
    s.grantWaiting i w =
      let due := decide (0 < s.warnMs w.target ∧ w.requestedTerm ≤ s.warnMs w.target)
      let v := (s.setBody i (.held { grantedSlot w.owner w.target w.mode w.requestedTerm s.now with
        lapseWarned := due })).offerNotice w.owner
          ⟨s.slotSubject i, .granted w.mode false (w.requestedTerm / 10)⟩
      if due then v.offerNotice w.owner ⟨s.slotSubject i, .lapsing (w.requestedTerm / 10)⟩ else v := by
  rw [State.grantWaiting, warnIfDue_of_held
    (h := grantedSlot w.owner w.target w.mode w.requestedTerm s.now) (by simp [State.setBody_eq]) rfl]
  by_cases hdue : 0 < s.warnMs w.target ∧ w.requestedTerm ≤ s.warnMs w.target <;>
    simp [grantedSlot, hdue, setSlot_offerNotice, State.setBody_eq, State.slotSubject, Config.unitMs]

/-! ### One turn of the grant pass (R37) -/

theorem grantHead_waiting {w : WaitingSlot} (hb : (s.slot i).body = .waiting w) :
    s.grantHead i =
      if s.compatible w.target w.mode = true then some (s.grantWaiting i w) else none := by
  simp only [State.grantHead, hb]

theorem grantHead_upgrade {h : HeldSlot} (hb : (s.slot i).body = .held h) (hu : h.upgrade.isSome) :
    s.grantHead i = if s.onlyHolder h.target i = true then some (s.grantUpgrade i h) else none := by
  simp only [State.grantHead, hb, hu, true_and]

theorem grantPass_of_empty (hq : (s.entry t).waitQueue = []) : s.grantPass t = s := by
  rw [State.grantPass, hq, grantLoop]

/-- A pass goes on from the state that the grant of the head leaves, or ends with nothing changed. -/
theorem grantPass_of_head {rest : List SlotIx} {c : Prop} [Decidable c] {v : State}
    (hq : (s.entry t).waitQueue = i :: rest)
    (hg : (s.setWaitQueue t rest).grantHead i = if c then some v else none) :
    s.grantPass t = if c then v.grantPass t else s := by
  rw [State.grantPass, hq, grantLoop, hg]
  by_cases hc : c
  · rw [if_pos hc] at hg ⊢
    obtain ⟨-, -, -, -, -, -, -, -, -, -, -, hentry, -⟩ := grantHead_frame hg
    simp [hc, State.grantPass, hentry, State.setWaitQueue_eq]
  · simp [hc]

/-- Settles O19: the turn of a pass at an empty queue, at a WAITING head, and at an upgrade waiter. Whether
the head is granted does not look at the queue it is taken from. -/
theorem grantPassByRule : Obligations.GrantPassByRule := by
  intro s t
  refine ⟨grantPass_of_empty, fun i rest w hq hb ht => ?_, fun i rest h d hq hb ht hu => ?_⟩
  · subst ht
    have hhead := grantHead_waiting (s := s.setWaitQueue w.target rest) hb
    rw [grantWaiting_eq, warnMs_setWaitQueue] at hhead
    exact grantPass_of_head hq hhead
  · subst ht
    exact grantPass_of_head hq (grantHead_upgrade hb (by simp [hu]))

end Sys2Proof.Machine

/-! The target catalogue (Section 3): which field sets are valid (R50), and SET-TARGET (R56), SET-RIGHTS
(R63) and QUERY-TARGET (R65). First what each check and each view of the catalogue says, and what each
request's owner does; then the statements, put together from these. -/

namespace Sys2Proof.Machine

variable {s : State} {l k : Link} {f : Frame} {rest : List Frame} {t : EntryIx} {i : SlotIx}

/-! ### An admitted request goes to its owner (R157) -/

theorem exec_setTarget (ha : s.Admits l .setTarget f rest) :
    exec (.setTarget l) s = .next (serveSetTarget l f (s.taking l rest)) :=
  congrArg _ (serve_admits ha serveSetTarget)

theorem exec_setRights (ha : s.Admits l .setRights f rest) :
    exec (.setRights l) s = .next (serveSetRights l f (s.taking l rest)) :=
  congrArg _ (serve_admits ha serveSetRights)

theorem exec_queryTarget (ha : s.Admits l .queryTarget f rest) :
    exec (.queryTarget l) s = .next (serveQueryTarget l f (s.taking l rest)) :=
  congrArg _ (serve_admits ha serveQueryTarget)

/-! ### Indices read from a byte -/

theorem entryOf_eq_some {b : Byte} (h : t.val = b.toNat) : entryOf b = some t :=
  (dif_pos (h ▸ t.isLt)).trans (congrArg some (Fin.ext h.symm))

theorem entryOf_eq_none {b : Byte} (h : 31 < b.toNat) : entryOf b = none :=
  dif_neg (by omega)

theorem linkOf_eq_some {b : Byte} (h : k.val = b.toNat) : linkOf b = some k :=
  (dif_pos (h ▸ k.isLt)).trans (congrArg some (Fin.ext h.symm))

theorem linkOf_eq_none {b : Byte} (h : 3 < b.toNat) : linkOf b = none :=
  dif_neg (by omega)

/-! ### Valid values (R50, R63) -/

theorem Rights.valid_iff {r : Rights} :
    r.valid = true ↔ 1 ≤ r.quota ∧ r.quota ≤ 24 ∧ r.grace ≤ 6000 := by
  simp [Rights.valid, and_assoc]

/-- Settles O22: the checks are the conditions one by one; a code of the rule is a bound of the check, and
a capacity is one above the number carried. -/
theorem fieldsValidByRule : Obligations.FieldsValidByRule := by
  intro f
  have hwidth : f.offsetWidth ≤ 2 ↔ f.offsetWidth = 0 ∨ f.offsetWidth = 1 ∨ f.offsetWidth = 2 := by omega
  have hcapacity : f.capacity ≤ 65536 ↔ f.capacityM1 ≤ 65535 := Nat.succ_le_succ_iff
  simp only [TargetFields.valid, Config.storeAddress, Bool.and_eq_true, Bool.or_eq_true,
    Bool.not_eq_true', ← Bool.not_eq_true, beq_iff_eq, decide_eq_true_eq, and_assoc, ← imp_iff_not_or,
    Nat.le_one_iff_eq_zero_or_eq_one, hwidth, hcapacity]
  rfl

/-! ### SET-RIGHTS (R63) -/

theorem serveSetRights_badreq (h : 3 < (byteAt f.body 0).toNat ∨ (rightsAt f.body 1).valid = false) :
    serveSetRights l f s = s.answer l f.tag .badreq [] := by
  unfold serveSetRights
  rcases h with hlink | hvalues
  · rw [linkOf_eq_none hlink]
  · split
    · rfl
    · simp [hvalues]

theorem serveSetRights_valid (hk : k.val = (byteAt f.body 0).toNat)
    (hv : (rightsAt f.body 1).valid = true) :
    serveSetRights l f s = (s.setRights k (rightsAt f.body 1)).answer l f.tag .ok [] := by
  simp [serveSetRights, linkOf_eq_some hk, hv]

/-- The values of a SET-RIGHTS frame are invalid where its quota or its grace is out of range. -/
theorem rightsAt_invalid (h : (byteAt f.body 3).toNat = 0 ∨ 24 < (byteAt f.body 3).toNat ∨
    6000 < wordAt f.body 4) : (rightsAt f.body 1).valid = false := by
  refine Bool.eq_false_iff.mpr fun hv => ?_
  obtain ⟨hlow, hhigh, hgrace⟩ := Rights.valid_iff.mp hv
  simp only [rightsAt, Nat.reduceAdd] at hlow hhigh hgrace
  omega

/-- Settles O26: a frame whose link or values are out of range is refused, any other is written. -/
theorem setRightsByRule : Obligations.SetRightsByRule := by
  intro s l f rest ha u
  rw [exec_setRights ha]
  refine ⟨fun h => congrArg _ (serveSetRights_badreq (h.imp_right rightsAt_invalid)), ?_⟩
  intro k hk hlow hhigh hgrace
  exact congrArg _ (serveSetRights_valid hk (Rights.valid_iff.mpr ⟨hlow, hhigh, hgrace⟩))

/-! ### SET-TARGET (R56) -/

/-- R52: the clash test, over the entries that have fields. -/
theorem clashes_iff {new : TargetFields} : s.clashes t new = true ↔
    ∃ x g, x ≠ t ∧ (s.entry x).body.fields? = some g ∧ g.bus = new.bus ∧ g.address = new.address := by
  simp only [State.clashes, entryIndices, List.any_eq_true, List.mem_finRange, true_and,
    Bool.and_eq_true, decide_eq_true_eq]
  refine exists_congr fun x => ?_
  cases (s.entry x).body.fields? <;> simp

theorem targetInUse_iff : s.targetInUse t = true ↔ ∃ i, (s.slot i).body.target? = some t := by
  simp [State.targetInUse, slotIndices]

section WriteTarget

variable {tag : Byte} {new : TargetFields}

theorem writeTarget_clash (hc : s.clashes t new = true) :
    s.writeTarget l tag t new = s.answer l tag .clash [] :=
  if_pos hc

/-- R56, check 3: a RETIRING entry, or a PRESENT one with a slot on it, is in use. -/
theorem writeTarget_inuse (hc : ¬ s.clashes t new = true)
    (h : (∃ g, (s.entry t).body = .retiring g) ∨
      (∃ g, (s.entry t).body = .present g) ∧ s.targetInUse t = true) :
    s.writeTarget l tag t new = s.answer l tag .inuse [] := by
  rcases h with ⟨g, hb⟩ | ⟨⟨g, hb⟩, hu⟩
  · simp [State.writeTarget, hc, hb]
  · simp [State.writeTarget, hc, hb, hu]

/-- R56: an ABSENT entry, or a PRESENT one with no slot on it, takes the new fields. -/
theorem writeTarget_accepted (hc : ¬ s.clashes t new = true)
    (h : (s.entry t).body = .absent ∨
      (∃ g, (s.entry t).body = .present g) ∧ ¬ s.targetInUse t = true) :
    s.writeTarget l tag t new = (s.makePresent t new).answer l tag .ok [] := by
  rcases h with hb | ⟨⟨g, hb⟩, hu⟩
  · simp [State.writeTarget, hc, hb]
  · simp [State.writeTarget, hc, hb, hu]

end WriteTarget

theorem serveSetTarget_badreq (h : 31 < (byteAt f.body 0).toNat ∨ (fieldsAt f.body 1).valid = false) :
    serveSetTarget l f s = s.answer l f.tag .badreq [] := by
  unfold serveSetTarget
  rcases h with hindex | hfields
  · rw [entryOf_eq_none hindex]
  · split
    · rfl
    · simp [hfields]

theorem serveSetTarget_valid (ht : t.val = (byteAt f.body 0).toNat)
    (hv : (fieldsAt f.body 1).valid = true) :
    serveSetTarget l f s = s.writeTarget l f.tag t (fieldsAt f.body 1) := by
  simp [serveSetTarget, entryOf_eq_some ht, hv]

/-- Settles O23, check by check. The checks look at the catalogue and the lease table alone, so they find
what stood there before the frame was taken. -/
theorem setTargetByChecks : Obligations.SetTargetByChecks := by
  intro s l f rest ha u new refused
  refine ⟨fun h => (exec_setTarget ha).trans (congrArg _ (serveSetTarget_badreq h)), ?_⟩
  intro t ht hv clash used
  have hserve : exec (.setTarget l) s = .next (u.writeTarget l f.tag t new) :=
    (exec_setTarget ha).trans (congrArg _ (serveSetTarget_valid ht hv))
  have hclash : u.clashes t new = true ↔ clash := clashes_iff
  have hused : u.targetInUse t = true ↔ used := targetInUse_iff
  rw [← hclash, ← hused]
  exact ⟨fun hc => hserve.trans (congrArg _ (writeTarget_clash hc)),
    fun hc h => hserve.trans (congrArg _ (writeTarget_inuse hc h)),
    fun hc h => hserve.trans (congrArg _ (writeTarget_accepted hc h))⟩

/-! ### QUERY-TARGET (R65) -/

/-- R28: the shared holder count, by the slots of the lease table. -/
theorem sharedCount_eq (s : State) (t : EntryIx) : s.sharedCount t =
    slotIndices.countP fun i => decide ((s.slot i).body.holding? = some (t, .shared)) := by
  rw [State.sharedCount, State.holders, List.countP_filterMap]
  refine List.countP_congr fun i _ => ?_
  cases (s.slot i).body.holding? with
  | none => simp
  | some x =>
    obtain ⟨t', m⟩ := x
    by_cases htarget : t' = t <;> simp [htarget]

theorem exclusiveHolder_eq_none (h : ∀ i, (s.slot i).body.holding? ≠ some (t, .exclusive)) :
    s.exclusiveHolder t = none := by
  simp only [State.exclusiveHolder, Option.map_eq_none_iff, List.find?_eq_none, decide_eq_true_eq]
  rintro ⟨j, m⟩ hmem rfl
  exact h j (mem_holders.mp hmem)

/-- R27, R28: an EXCLUSIVE member is the one that the view finds, since it stands in the set alone. -/
theorem exclusiveHolder_eq_some (hl : s.HolderLaw)
    (hi : (s.slot i).body.holding? = some (t, .exclusive)) : s.exclusiveHolder t = some i := by
  have hany : ((s.holders t).find? fun h => decide (h.2 = .exclusive)).isSome :=
    List.find?_isSome.mpr ⟨(i, .exclusive), mem_holders.mpr hi, by simp⟩
  obtain ⟨⟨j, m⟩, hfind⟩ := Option.isSome_iff_exists.mp hany
  have hj := mem_holders.mp (List.mem_of_find?_eq_some hfind)
  have hji : j = i := by
    by_contra hne
    exact absurd (hl j i t m .exclusive hne hj hi).2 (by decide)
  simp [State.exclusiveHolder, hfind, hji]

theorem upgradeWaiter_eq_some {h : HeldSlot} {queue : List SlotIx}
    (hq : (s.entry t).waitQueue = i :: queue) (hb : (s.slot i).body = .held h)
    (hu : h.upgrade ≠ none) : s.upgradeWaiter t = some i := by
  simp [State.upgradeWaiter, hq, hb, Option.isSome_iff_ne_none.mpr hu]

theorem upgradeWaiter_eq_none (hn : ∀ i h queue, (s.entry t).waitQueue = i :: queue →
    (s.slot i).body = .held h → h.upgrade = none) : s.upgradeWaiter t = none := by
  unfold State.upgradeWaiter
  split
  · rename_i i queue hq
    split
    · rename_i h hb
      simp [hn i h queue hq hb]
    · rfl
  · rfl

theorem serveQueryTarget_badreq (h : 31 < (byteAt f.body 0).toNat) :
    serveQueryTarget l f s = s.answer l f.tag .badreq [] := by
  rw [serveQueryTarget, entryOf_eq_none h]

theorem serveQueryTarget_ok (ht : t.val = (byteAt f.body 0).toNat) :
    serveQueryTarget l f s = s.answer l f.tag .ok (s.targetReport t) := by
  rw [serveQueryTarget, entryOf_eq_some ht]

/-- Table 9-6: the state and the fields of an entry, and after them what stands on it. -/
theorem targetReport_eq (s : State) (t : EntryIx) : s.targetReport t =
    (match (s.entry t).body with
      | .absent => 0 :: List.replicate 14 0
      | .present g => 1 :: fieldBytes g
      | .retiring g => 2 :: fieldBytes g) ++
    [byteOf (s.sharedCount t), slotOrNone (s.exclusiveHolder t),
      byteOf (s.entry t).waitQueue.length, slotOrNone (s.upgradeWaiter t)] := by
  unfold State.targetReport
  cases (s.entry t).body <;> rfl

/-- Settles O27: the report of the entry, with the count and the two members that its views find. -/
theorem queryTargetAnswers : Obligations.QueryTargetAnswers := by
  intro s l f rest ha hl u
  rw [exec_queryTarget ha]
  refine ⟨fun h => congrArg _ (serveQueryTarget_badreq h), fun t x y ht hx hy => ?_⟩
  have hholder : slotOrNone (u.exclusiveHolder t) = x := by
    rcases hx with ⟨i, hi, rfl⟩ | ⟨hnone, rfl⟩
    · exact congrArg slotOrNone (exclusiveHolder_eq_some (s := u) hl hi)
    · exact congrArg slotOrNone (exclusiveHolder_eq_none (s := u) hnone)
  have hwaiter : slotOrNone (u.upgradeWaiter t) = y := by
    rcases hy with ⟨i, h, queue, hq, hb, hu, rfl⟩ | ⟨hnone, rfl⟩
    · exact congrArg slotOrNone (upgradeWaiter_eq_some (s := u) hq hb hu)
    · exact congrArg slotOrNone (upgradeWaiter_eq_none (s := u) hnone)
  rw [serveQueryTarget_ok ht, targetReport_eq, sharedCount_eq, hholder, hwaiter]
  rfl

end Sys2Proof.Machine

/-! The session requests (Section 6): HELLO (R109). First what opening a session leaves of its notice unit
and its slot count, and what each row of Table 6-1 does; then the statement, put together from these. -/

namespace Sys2Proof.Machine

variable {s : State} {l : Link} {f : Frame} {rest : List Frame}

/-! ### An admitted request goes to its owner (R157) -/

theorem exec_hello (ha : s.Admits l .hello f rest) :
    exec (.hello l) s = .next (serveHello l f (s.taking l rest)) :=
  congrArg _ (serve_admits ha serveHello)

/-! ### A session that begins or ends -/

/-- R5: a session that owns no slot has the slot count 0. -/
theorem slotCount_eq_zero (h : ∀ i, (s.slot i).body.owner? ≠ some l) : s.slotCount l = 0 := by
  simp [State.slotCount, h]

theorem putSession_eq (s : State) (l : Link) (x : Session) :
    s.putSession l x = (s.setSession l x).setNotice l { s.notice l with
      attn := attnLevel x (s.notice l).queue } := by
  simp [State.putSession, State.refreshAttn]

/-- R111, R130: a new session begins with nothing in its notice unit, so with ATTN deasserted. -/
theorem openSession_eq (s : State) (l : Link) (key : Nat) :
    s.openSession l key = (s.setNotice l ⟨[], false, false⟩).setSession l (.opened key) := by
  have hcomm (t : State) (n : NoticeUnit) (x : Session) :
      (t.setSession l x).setNotice l n = (t.setNotice l n).setSession l x := rfl
  simp [State.openSession, putSession_eq, State.clearNotices, hcomm, attnLevel]

/-- R116.3, R130: a teardown empties the notice unit of the session it ends. -/
theorem notice_teardown (s : State) (l : Link) : (s.teardown l).notice l = ⟨[], false, false⟩ := by
  simp [State.teardown, putSession_eq, State.clearNotices, attnLevel]

/-- R116: after its teardown a session owns no slot. -/
theorem owner_teardown (s : State) (l : Link) (i : SlotIx) :
    ((s.teardown l).slot i).body.owner? ≠ some l := by
  simpa [State.teardown] using (tearHoldings_settled s l).1 i

/-! ### HELLO by the rows of Table 6-1 (R109) -/

/-- R109, R111: the body of the answer for a new session, which owns no slot and has no notice. -/
theorem answerHello_openSession (h : ∀ i, (s.slot i).body.owner? ≠ some l) (tag : Byte) (key : Nat) :
    (s.openSession l key).answerHello l tag false =
      ((s.setNotice l ⟨[], false, false⟩).setSession l (.opened key)).answer l tag .ok [0, 0, 0] := by
  have hcount : (s.openSession l key).slotCount l = 0 :=
    slotCount_eq_zero (by simpa [openSession_eq] using h)
  rw [State.answerHello, hcount, openSession_eq]
  simp [flagByte, byteOf]

/-- R109, R116: the session that takes the place of a torn down one. The teardown has emptied its notice
unit already, so only the session record changes. -/
theorem answerHello_replaced (s : State) (l : Link) (tag : Byte) (key : Nat) :
    ((s.teardown l).openSession l key).answerHello l tag false =
      ((s.teardown l).setSession l (.opened key)).answer l tag .ok [0, 0, 0] := by
  rw [answerHello_openSession (owner_teardown s l), ← notice_teardown s l, State.setNotice_notice]

theorem helloByState_closed (hs : s.session l = .closed)
    (h : ∀ i, (s.slot i).body.owner? ≠ some l) (tag : Byte) (key : Nat) :
    s.helloByState l tag key =
      ((s.setNotice l ⟨[], false, false⟩).setSession l (.opened key)).answer l tag .ok [0, 0, 0] := by
  simp only [State.helloByState, hs, answerHello_openSession h]

theorem helloByState_opened {held : Nat} (hs : s.session l = .opened held) (tag : Byte) (key : Nat) :
    s.helloByState l tag key =
      if held = key then
        s.answer l tag .ok [0, byteOf (s.slotCount l), byteOf (s.notice l).queue.length]
      else ((s.teardown l).setSession l (.opened key)).answer l tag .ok [0, 0, 0] := by
  simp only [State.helloByState, hs, answerHello_replaced]
  rfl

/-- R109, R130: a session resumed keeps its slots and its notices, and ATTN shows its queue again. -/
theorem answerHello_resumed (s : State) (l : Link) (tag : Byte) (key : Nat) :
    (s.putSession l (.opened key)).answerHello l tag true =
      ((s.setSession l (.opened key)).setNotice l { s.notice l with
        attn := !(s.notice l).queue.isEmpty }).answer l tag .ok
          [1, byteOf (s.slotCount l), byteOf (s.notice l).queue.length] := by
  simp [State.answerHello, State.slotCount, putSession_eq, attnLevel, Session.isOpen, flagByte]

theorem helloByState_suspended {held grace : Nat} (hs : s.session l = .suspended held grace)
    (tag : Byte) (key : Nat) :
    s.helloByState l tag key =
      if held = key then
        ((s.setSession l (.opened key)).setNotice l { s.notice l with
          attn := !(s.notice l).queue.isEmpty }).answer l tag .ok
            [1, byteOf (s.slotCount l), byteOf (s.notice l).queue.length]
      else ((s.teardown l).setSession l (.opened key)).answer l tag .ok [0, 0, 0] := by
  simp only [State.helloByState, hs, answerHello_replaced, answerHello_resumed]

/-- Settles O3, by the key and then by the state of the session. Taking the frame leaves the session, its
slots and its notices, so the row is the one of the state before the request. -/
theorem helloByTable : Obligations.HelloByTable := by
  intro s l f rest ha hclosed u key count notices
  refine (exec_hello ha).trans (congrArg _ ?_)
  by_cases hkey : key = 0
  · exact (if_pos hkey).trans (if_pos hkey).symm
  · refine (if_neg hkey).trans (Eq.trans ?_ (if_neg hkey).symm)
    cases hs : s.session l with
    | closed => exact helloByState_closed (s := u) hs (hclosed l (by rw [hs]; rfl)).1 f.tag key
    | opened held => exact helloByState_opened (s := u) hs f.tag key
    | suspended held grace => exact helloByState_suspended (s := u) hs f.tag key

end Sys2Proof.Machine

/-! Notices (Section 7): COLLECT (R131), and what an offered notice makes of a queue (R126 to R128). -/

namespace Sys2Proof.Machine

variable {s : State} {l : Link} {f : Frame} {rest : List Frame} {n : Notice} {u : NoticeUnit}
  {q : List Notice}

/-! ### COLLECT (R131) -/

theorem exec_collect (ha : s.Admits l .collect f rest) :
    exec (.collect l) s = .next (serveCollect l f (s.taking l rest)) :=
  congrArg _ (serve_admits ha serveCollect)

/-- R130, R131: the notices taken leave the rest of the queue, and ATTN of an OPEN session shows it. -/
theorem collectNotices_opened (hs : (s.session l).isOpen = true) (tag : Byte) (n : Nat) :
    s.collectNotices l tag n =
      (s.setNotice l ⟨(s.notice l).queue.drop n, false, !((s.notice l).queue.drop n).isEmpty⟩).answer
        l tag .ok
        ([byteOf (min n (s.notice l).queue.length), if (s.notice l).overrun then 1 else 0,
          byteOf ((s.notice l).queue.length - n)] ++ ((s.notice l).queue.take n).flatMap Notice.bytes) := by
  simp [State.collectNotices, State.refreshAttn, attnLevel, hs, flagByte]

/-- Settles O33, by the count asked for. Taking the frame leaves the session OPEN and its notices as they
were. -/
theorem collectByRule : Obligations.CollectByRule := by
  intro s l f rest ha u n q
  refine (exec_collect ha).trans (congrArg _ ?_)
  obtain ⟨-, -, -, -, hopen | hhello, -⟩ := ha
  · by_cases hn : n < 1 ∨ 4 < n
    · exact (if_pos hn).trans (if_pos hn).symm
    · exact (if_neg hn).trans ((collectNotices_opened (s := u) hopen f.tag n).trans (if_neg hn).symm)
  · cases hhello

/-! ### A notice offered to a queue (R126 to R128) -/

theorem Notice.matches_iff {m : Notice} :
    n.matches m = true ↔ m.detail.kind = n.detail.kind ∧ m.subject = n.subject := by
  simp [Notice.matches, eq_comm (a := n.detail.kind), eq_comm (a := n.subject)]

/-- R126: in a queue in class order, the place after every notice of the class of `n` or a lesser one
parts those notices from the ones of a greater class. -/
theorem insertNotice_eq (n : Notice) (hq : q.Pairwise fun a b => a.cls ≤ b.cls) :
    insertNotice n q = (q.filter fun m => decide (m.cls ≤ n.cls)) ++
      n :: q.filter fun m => decide (n.cls < m.cls) := by
  induction q with
  | nil => rfl
  | cons m ms ih =>
    obtain ⟨hm, hms⟩ := List.pairwise_cons.mp hq
    by_cases hle : m.cls ≤ n.cls
    · simp [insertNotice, hle, Nat.not_lt.mpr hle, ih hms]
    · have hgreater : ∀ k ∈ ms, n.cls < k.cls := fun k hk =>
        (Nat.lt_of_not_le hle).trans_le (hm k hk)
      have hnone : (ms.filter fun k => decide (k.cls ≤ n.cls)) = [] := by
        simpa using hgreater
      have hall : (ms.filter fun k => decide (n.cls < k.cls)) = ms := by
        simpa using hgreater
      simp [insertNotice, hle, Nat.lt_of_not_le hle, hnone, hall]

/-- R127: a notice that matches one in the queue changes nothing of it, be the queue full or not. -/
theorem offer_coalesced
    (h : ∃ m ∈ u.queue, m.detail.kind = n.detail.kind ∧ m.subject = n.subject) : u.offer n = u := by
  have hany : u.queue.any n.matches = true := by simpa [Notice.matches_iff] using h
  simp [NoticeUnit.offer, hany]

section
variable (hnew : ∀ m ∈ u.queue, ¬ (m.detail.kind = n.detail.kind ∧ m.subject = n.subject))
include hnew

theorem any_matches_eq_false : u.queue.any n.matches = false :=
  List.any_eq_false.mpr fun m hm => mt Notice.matches_iff.mp (hnew m hm)

/-- R126: a notice that matches none is stored where there is room. -/
theorem offer_stored (hroom : u.queue.length < 8) :
    u.offer n = { u with queue := insertNotice n u.queue } := by
  simp [NoticeUnit.offer, any_matches_eq_false hnew, Config.noticeDepth, hroom]

/-- R128: of a full queue the last notice makes way for one of a lesser class; else the new one is
dropped. Either sets the overrun flag. -/
theorem offer_full {last : Notice} (hfull : u.queue.length = 8) (hlast : u.queue = q ++ [last]) :
    u.offer n = if n.cls < last.cls then { u with queue := insertNotice n q, overrun := true }
      else { u with overrun := true } := by
  have hroom : ¬ u.queue.length < Config.noticeDepth := by simp [Config.noticeDepth, hfull]
  rw [NoticeUnit.offer, any_matches_eq_false hnew, if_neg Bool.false_ne_true, if_neg hroom]
  simp [hlast]

end

/-! ### A notice offered to a session (R126, R130) -/

theorem offerNotice_closed (hs : s.session l = .closed) (n : Notice) : s.offerNotice l n = s := by
  simp [State.offerNotice, hs, Session.isClosed]

theorem offerNotice_of_offer (hs : s.session l ≠ .closed) (hu : (s.notice l).offer n = u) :
    s.offerNotice l n =
      s.setNotice l { u with attn := (s.session l).isOpen && !u.queue.isEmpty } := by
  have hclosed : (s.session l).isClosed = false := by
    cases h : s.session l with
    | closed => exact absurd h hs
    | opened | suspended => rfl
  simp [State.offerNotice, hclosed, State.refreshAttn, attnLevel, hu]

/-- Settles O34, by what the offered notice makes of the queue. A queue in class order stays so without its
last notice, so the place of a notice that displaces it is found as in any other queue. -/
theorem noticeOfferByRule : Obligations.NoticeOfferByRule := by
  intro s l n u lesser greater store
  refine ⟨fun hs => offerNotice_closed hs n, fun hs hord => ⟨fun hsame => ?coalesced, fun hnew =>
    ⟨fun hroom => ?stored, fun hfull q last hlast => ?displaced⟩⟩⟩
  case coalesced => exact offerNotice_of_offer hs (offer_coalesced hsame)
  case stored =>
    refine offerNotice_of_offer hs ((offer_stored hnew hroom).trans ?_)
    rw [insertNotice_eq n hord]
  case displaced =>
    have hfront : q.Pairwise fun a b => a.cls ≤ b.cls := (List.pairwise_append.mp (hlast ▸ hord)).1
    refine offerNotice_of_offer hs ((offer_full hnew hfull hlast).trans ?_)
    rw [insertNotice_eq n hfront]

end Sys2Proof.Machine

/-! A step, said once: the command at the front of the queue, the idle step, and what a line check and
COLD_START leave. A law that every move keeps and that a cold start establishes is kept by every step. -/

namespace Sys2Proof.Machine

variable {s t : State} {b : BusIx}

/-! ### The line check (R89) -/

/-- R89: a line check moves one engine to where the levels lead. -/
theorem lineCheck_eq_setEngine (s : State) (b : BusIx) (a : Attempt) (lines : LineLevels) :
    s.lineCheck b a lines =
      s.setEngine b { s.engine b with state := engineAfterCheck a (s.planFor b a) lines } := by
  cases lines <;> rfl

/-- R71, R72: the plan looks at the engine's work, the pool, the image and the load. -/
theorem planFor_setEngine (s : State) (b : BusIx) (e : Engine) (a : Attempt)
    (hw : e.work = (s.engine b).work) : (s.setEngine b e).planFor b a = s.planFor b a := by
  simp only [State.planFor, State.engine_setEngine_self, hw]
  rfl

/-- R88, R96: an operation begins with no retry used. -/
theorem beginOperation_eq_setEngine (s : State) (b : BusIx) (lines : LineLevels) :
    s.beginOperation b lines = s.setEngine b { s.engine b with
      retriesUsed := 0
      state := engineAfterCheck .operation (s.planFor b .operation) lines } := by
  rw [State.beginOperation, lineCheck_eq_setEngine,
    planFor_setEngine s b { s.engine b with retriesUsed := 0 } _ rfl]
  simp

/-! ### COLD_START (R135) -/

/-- R135, R138: the state of a cold start, with the first load operation taken by the B0 engine. -/
theorem coldStart_eq (s : State) (supen : Bool) (supsel rate : BitVec 2) (lines : LineLevels) :
    s.coldStart supen supsel rate lines =
      (coldState s.pending s.now s.freeCount (strapSupervisor supen supsel) rate).setEngine 0
        ⟨engineAfterCheck .operation (readPlan storeSnapshot 0 2) lines, .none, .load, 0, ⟨0, []⟩⟩ := by
  rw [State.coldStart, State.takeLoadOperation]
  cases lines <;> rfl

section Cold

variable (pending : List Instr) (now count : Nat) (sup : Option Link) (rate : BitVec 2)

theorem coldState_arrays :
    (∀ i, (coldState pending now count sup rate).slot i = ⟨1, .free⟩) ∧
    (∀ e, (coldState pending now count sup rate).entry e = ⟨.absent, []⟩) ∧
    (∀ l, (coldState pending now count sup rate).rightsOf l = defaultRights sup l) ∧
    (∀ p, (coldState pending now count sup rate).record p = none) ∧
    (∀ l, (coldState pending now count sup rate).waitingDone l = []) ∧
    (∀ b, (coldState pending now count sup rate).busQueue b = []) ∧
    (∀ b, (coldState pending now count sup rate).engine b = coldEngine) ∧
    (∀ l, (coldState pending now count sup rate).session l = .closed) ∧
    (∀ l, (coldState pending now count sup rate).notice l = ⟨[], false, false⟩) ∧
    (∀ l, (coldState pending now count sup rate).link l = coldLink now) := by
  refine ⟨?_, ?_, ?_, ?_, ?_, ?_, ?_, ?_, ?_, ?_⟩
  case refine_3 =>
    intro l
    fin_cases l <;> rfl
  all_goals
    intro k
    exact Vector.getElem_replicate _

end Cold

/-! ### A step -/

theorem step_of_pending {c : Instr} {rest : List Instr} (h : s.pending = c :: rest) :
    step s = exec c { s with pending := rest } := by
  rw [step, h]

/-- A law of states that does not speak of the queue of commands, that a cold start establishes and every
move keeps, is kept by every step. -/
theorem step_keeps {P : State → Prop} (hpending : ∀ (s : State) rest, P s → P { s with pending := rest })
    (hcold : ∀ (s : State) supen supsel rate lines, P (s.coldStart supen supsel rate lines))
    (hmove : ∀ s t, Move s t → P s → P t) (hstep : step s = .next t) (hs : P s) : P t := by
  cases hq : s.pending with
  | nil =>
    obtain ⟨t', ht', hm⟩ := moves_step_idle hq
    cases ht'.symm.trans hstep
    exact hm.keep hmove hs
  | cons c rest =>
    rw [step_of_pending hq] at hstep
    cases hc : isColdStart c with
    | false =>
      obtain ⟨t', ht', hm⟩ := moves_exec c hc { s with pending := rest }
      cases ht'.symm.trans hstep
      exact hm.keep hmove (hpending s rest hs)
    | true =>
      cases c with
      | coldStart supen supsel rate lines =>
        cases hstep
        exact hcold _ supen supsel rate lines
      | _ => cases hc

end Sys2Proof.Machine

/-! The lease table (Section 1): what a move can do to a slot, said once, and from it the laws of the lease
table that every step keeps. -/

namespace Sys2Proof.Machine

/-! ### What a move does to the slots -/

/-- What an effect can make of the body of slot `i`; its generation stays. -/
inductive SlotStep (s : State) (i : SlotIx) : SlotBody → Prop
  | vacated (t : EntryIx) (ht : (s.slot i).body.target? = some t)
      (hs : (s.slot i).body.stateName ≠ .ending) : SlotStep s i .free
  | ended (h : HeldSlot) (owner : Option Link) (cause : EndCause) (hb : (s.slot i).body = .held h)
      (ho : owner = some h.owner ∨ owner = none) :
      SlotStep s i (.ending ⟨owner, h.target, h.mode, h.inFlight, cause⟩)
  | detached (e : EndingSlot) (hb : (s.slot i).body = .ending e) :
      SlotStep s i (.ending { e with owner := none })
  | freed (e : EndingSlot) (hb : (s.slot i).body = .ending e) : SlotStep s i .free
  /-- the record in flight, the warning and the upgrade of a HELD slot -/
  | kept (h h' : HeldSlot) (hb : (s.slot i).body = .held h) (ho : h'.owner = h.owner)
      (ht : h'.target = h.target) (hm : h'.mode = h.mode) : SlotStep s i (.held h')
  | downgraded (h : HeldSlot) (hb : (s.slot i).body = .held h) :
      SlotStep s i (.held { h with mode := .shared })
  | upgraded (h : HeldSlot) (u : Option Nat) (hb : (s.slot i).body = .held h)
      (ho : s.onlyHolder h.target i = true) :
      SlotStep s i (.held { h with mode := .exclusive, upgrade := u })
  | granted (w : WaitingSlot) (hb : (s.slot i).body = .waiting w)
      (hc : s.compatible w.target w.mode = true) :
      SlotStep s i (.held (grantedSlot w.owner w.target w.mode w.requestedTerm s.now))

/-- One slot has a new body, and every other slot is as it was. -/
def State.SlotWritten (s t : State) (i : SlotIx) (x : Slot) : Prop :=
  ∀ k, t.slot k = if i = k then x else s.slot k

theorem slotWritten_setBody (s : State) (i : SlotIx) (b : SlotBody) :
    s.SlotWritten (s.setBody i b) i ⟨(s.slot i).generation, b⟩ := fun k =>
  State.slot_setSlot s i k _

/-- Updates of other records do not touch the slot table. -/
theorem State.SlotWritten.congr {s t u : State} {i : SlotIx} {x : Slot} (h : s.SlotWritten t i x)
    (hu : ∀ k, u.slot k = t.slot k) : s.SlotWritten u i x := fun k => (hu k).trans (h k)

/-- An effect leaves every slot, or writes one of them by a step of its course. -/
theorem effect_slots {s t : State} (h : Effect s t) : (∀ k, t.slot k = s.slot k) ∨
    ∃ i b, SlotStep s i b ∧ s.SlotWritten t i ⟨(s.slot i).generation, b⟩ := by
  cases h with
  | vacated i t ht hs =>
    exact .inr ⟨i, _, .vacated t ht hs, (slotWritten_setBody s i _).congr fun _ => by
      simp [State.vacate, State.freeSlot]⟩
  | ended i h owner cause hb ho =>
    exact .inr ⟨i, _, .ended h owner cause hb ho, (slotWritten_setBody s i _).congr fun _ => by simp⟩
  | detached i e hb => exact .inr ⟨i, _, .detached e hb, slotWritten_setBody s i _⟩
  | freed i e hb => exact .inr ⟨i, _, .freed e hb, slotWritten_setBody s i _⟩
  | kept i h h' hb ho ht hm hu => exact .inr ⟨i, _, .kept h h' hb ho ht hm, slotWritten_setBody s i _⟩
  | downgraded i h hb => exact .inr ⟨i, _, .downgraded h hb, slotWritten_setBody s i _⟩
  | upgraded i h hb ho => exact .inr ⟨i, _, .upgraded h h.upgrade hb ho, slotWritten_setBody s i _⟩
  | upgradeAsked i h d hb hu ho =>
    exact .inr ⟨i, _, .kept h { h with upgrade := some d } hb rfl rfl rfl,
      (slotWritten_setBody s i _).congr fun _ => rfl⟩
  | upgradeLeft i h hb =>
    exact .inr ⟨i, _, .kept h { h with upgrade := none } hb rfl rfl rfl,
      (slotWritten_setBody s i _).congr fun _ => by simp⟩
  | grantedWaiting t i rest w hq hb hc =>
    exact .inr ⟨i, _, .granted w hb hc, (slotWritten_setBody s i _).congr fun _ => rfl⟩
  | grantedUpgrade t i rest h hq hb hu ho =>
    exact .inr ⟨i, _, .upgraded h none hb ho, (slotWritten_setBody s i _).congr fun _ => rfl⟩
  | offered l n => exact .inl (by simp)
  | _ => exact .inl fun _ => rfl

/-- OPEN writes one FREE slot, HELD or WAITING for an OPEN session that owns no slot on the target. -/
theorem opening_slots {s t : State} (h : Opening s t) : ∃ i b l x, (s.slot i).body = .free ∧
    b.owner? = some l ∧ b.target? = some x ∧ (s.session l).isOpen = true ∧ s.ownsOn l x = false ∧
    (b.stateName = .held ∨ b.stateName = .waiting) ∧ b.inFlight? = none ∧
    (∀ m, b.holding? = some (x, m) → s.compatible x m = true) ∧
    s.SlotWritten t i ⟨nextGeneration (s.slot i).generation, b⟩ := by
  cases h with
  | held i l x m term now f hf hp ht hl ho hg =>
    obtain ⟨-, hc⟩ := grantableAtOnce_iff.mp hg
    exact ⟨i, .held (grantedSlot l x m term now), l, x, hf, rfl, rfl, hl, ho, .inl rfl, rfl,
      fun n hn => by cases hn; exact hc, fun k => State.slot_setSlot s i k _⟩
  | waiting i w f hf hp ht hl ho hq =>
    exact ⟨i, .waiting w, _, _, hf, rfl, rfl, hl, ho, .inr rfl, rfl, nofun,
      fun k => State.slot_setSlot s i k _⟩

/-! ### Owners and targets (R8) -/

/-- A slot that has an owner after a step had the same owner and target before it. -/
theorem SlotStep.owner {s : State} {i : SlotIx} {b : SlotBody} (h : SlotStep s i b) {l : Link}
    (hl : b.owner? = some l) :
    (s.slot i).body.owner? = some l ∧ (s.slot i).body.target? = b.target? := by
  cases h with
  | vacated => cases hl
  | ended h owner cause hb ho =>
    rcases ho with rfl | rfl
    · exact ⟨by rw [hb]; exact hl, by rw [hb]; rfl⟩
    · cases hl
  | detached => cases hl
  | freed => cases hl
  | kept h h' hb ho ht hm =>
    exact ⟨by rw [hb, ← hl]; exact congrArg some ho.symm, by rw [hb]; exact congrArg some ht.symm⟩
  | downgraded h hb => exact ⟨by rw [hb]; exact hl, by rw [hb]; rfl⟩
  | upgraded h u hb ho => exact ⟨by rw [hb]; exact hl, by rw [hb]; rfl⟩
  | granted w hb hc => exact ⟨by rw [hb]; exact hl, by rw [hb]; rfl⟩

/-- Where every owned slot had its owner and target before, no session comes to own two on a target. -/
theorem oneSlotLaw_of_owner {s t : State} (h : s.OneSlotLaw)
    (hk : ∀ k l, (t.slot k).body.owner? = some l →
      (s.slot k).body.owner? = some l ∧ (s.slot k).body.target? = (t.slot k).body.target?) :
    t.OneSlotLaw := by
  intro i j l x hi hj hxi hxj
  obtain ⟨hi', hti⟩ := hk i l hi
  obtain ⟨hj', htj⟩ := hk j l hj
  exact h i j l x hi' hj' (hti.trans hxi) (htj.trans hxj)

theorem oneSlotLaw_move {s t : State} (hm : Move s t) (h : s.OneSlotLaw) : t.OneSlotLaw := by
  cases hm with
  | effect he =>
    rcases effect_slots he with hk | ⟨i, b, hstep, hw⟩
    · exact oneSlotLaw_of_owner h fun k l hl => ⟨hk k ▸ hl, by rw [hk k]⟩
    · refine oneSlotLaw_of_owner h fun k l hl => ?_
      rw [hw k] at hl ⊢
      by_cases hik : i = k
      · subst hik
        simpa using hstep.owner (by simpa using hl)
      · simpa [hik] using hl
  | opening ho =>
    obtain ⟨i, b, l, x, hf, hbl, hbx, -, hown, -, -, -, hw⟩ := opening_slots ho
    have hno : ∀ k, (s.slot k).body.owner? = some l → (s.slot k).body.target? ≠ some x :=
      fun k hk hx => Bool.eq_false_iff.mp hown ((ownsOn_iff s l x).mpr ⟨k, hk, hx⟩)
    -- the new slot is the only one of its owner on its target
    have hnew : ∀ k l' x', i ≠ k → b.owner? = some l' → b.target? = some x' →
        (s.slot k).body.owner? = some l' → (s.slot k).body.target? ≠ some x' := by
      intro k l' x' _ h1 h2
      cases hbl.symm.trans h1
      cases hbx.symm.trans h2
      exact hno k
    intro j k l' x' hj hk hxj hxk
    rw [hw j] at hj hxj
    rw [hw k] at hk hxk
    by_cases hij : i = j <;> by_cases hik : i = k
    · exact hij.symm.trans hik
    · simp only [hij, if_true] at hj hxj
      simp only [hik, if_false] at hk hxk
      exact absurd hxk (hnew k l' x' hik hj hxj hk)
    · simp only [hik, if_true] at hk hxk
      simp only [hij, if_false] at hj hxj
      exact absurd hxj (hnew j l' x' hij hk hxk hj)
    · simp only [hij, hik, if_false] at hj hk hxj hxk
      exact h j k l' x' hj hk hxj hxk

/-! ### Holder sets (R27) -/

/-- No other slot holds the target but as two SHARED holders do. -/
def State.JoinsHolders (s : State) (i : SlotIx) (x : EntryIx) (m : Mode) : Prop :=
  ∀ j, j ≠ i → ∀ n, (s.slot j).body.holding? = some (x, n) → m = .shared ∧ n = .shared

theorem joinsHolders_of_compatible {s : State} {x : EntryIx} {m : Mode}
    (h : s.compatible x m = true) (i : SlotIx) : s.JoinsHolders i x m := by
  intro j _ n hn
  cases m with
  | shared => exact ⟨rfl, compatible_shared_iff.mp h j n hn⟩
  | exclusive => exact absurd hn (compatible_exclusive_iff.mp h j n)

theorem joinsHolders_of_onlyHolder {s : State} {x : EntryIx} {i : SlotIx}
    (h : s.onlyHolder x i = true) (m : Mode) : s.JoinsHolders i x m := fun j hj n hn =>
  absurd ((onlyHolder_iff.mp h j).mp ⟨n, hn⟩) hj

/-- A holder after a step held the target before, in the same mode or now in SHARED, or joins holders that
it is compatible with. -/
theorem SlotStep.holding {s : State} {i : SlotIx} {b : SlotBody} (h : SlotStep s i b) {x : EntryIx}
    {m : Mode} (hx : b.holding? = some (x, m)) :
    (∃ m', (s.slot i).body.holding? = some (x, m') ∧ (m = m' ∨ m = .shared)) ∨
      s.JoinsHolders i x m := by
  cases h with
  | vacated => cases hx
  | freed => cases hx
  | ended h owner cause hb ho => exact .inl ⟨m, by rw [hb]; exact hx, .inl rfl⟩
  | detached e hb => exact .inl ⟨m, by rw [hb]; exact hx, .inl rfl⟩
  | kept h h' hb ho ht hm =>
    refine .inl ⟨m, ?_, .inl rfl⟩
    rw [hb, ← hx, SlotBody.holding?, SlotBody.holding?, ht, hm]
  | downgraded h hb =>
    cases hx
    exact .inl ⟨h.mode, by rw [hb]; rfl, .inr rfl⟩
  | upgraded h u hb ho =>
    cases hx
    exact .inr (joinsHolders_of_onlyHolder ho _)
  | granted w hb hc =>
    cases hx
    exact .inr (joinsHolders_of_compatible hc i)

/-- A slot written so that it keeps its place in a holder set, or joins holders it is compatible with. -/
theorem holderLaw_of_written {s t : State} {i : SlotIx} {x : Slot} (h : s.HolderLaw)
    (hw : s.SlotWritten t i x)
    (hx : ∀ e m, x.body.holding? = some (e, m) →
      (∃ m', (s.slot i).body.holding? = some (e, m') ∧ (m = m' ∨ m = .shared)) ∨
        s.JoinsHolders i e m) : t.HolderLaw := by
  have hnew : ∀ k e m n, k ≠ i → x.body.holding? = some (e, m) →
      (s.slot k).body.holding? = some (e, n) → m = .shared ∧ n = .shared := by
    intro k e m n hk hm hn
    rcases hx e m hm with ⟨m', hm', hmm⟩ | hj
    · obtain ⟨rfl, rfl⟩ := h i k e m' n hk.symm hm' hn
      exact ⟨hmm.elim id id, rfl⟩
    · exact hj k hk n hn
  intro j k e m n hjk hm hn
  rw [hw j] at hm
  rw [hw k] at hn
  by_cases hij : i = j <;> by_cases hik : i = k
  · exact absurd (hij.symm.trans hik) hjk
  · simp only [hij, if_true] at hm
    simp only [hik, if_false] at hn
    exact hnew k e m n (Ne.symm hik) hm hn
  · simp only [hij, if_false] at hm
    simp only [hik, if_true] at hn
    exact (hnew j e n m (Ne.symm hij) hn hm).symm
  · simp only [hij, hik, if_false] at hm hn
    exact h j k e m n hjk hm hn

theorem holderLaw_move {s t : State} (hm : Move s t) (h : s.HolderLaw) : t.HolderLaw := by
  cases hm with
  | effect he =>
    rcases effect_slots he with hk | ⟨i, b, hstep, hw⟩
    · intro i j e m n hij hi hj
      exact h i j e m n hij (hk i ▸ hi) (hk j ▸ hj)
    · exact holderLaw_of_written h hw fun e m hx => hstep.holding hx
  | opening ho =>
    obtain ⟨i, b, l, x, hf, -, hbx, -, -, -, -, hc, hw⟩ := opening_slots ho
    refine holderLaw_of_written h hw fun e m hx => .inr ?_
    have hex : e = x := by
      cases b with
      | held => cases hx; cases hbx; rfl
      | ending => cases hx; cases hbx; rfl
      | free | waiting => cases hx
    subst hex
    exact joinsHolders_of_compatible (hc m hx) i

/-! ### Generations (R2) -/

theorem nextGeneration_bounds {g : Nat} (h : 1 ≤ g ∧ g ≤ 65535) :
    1 ≤ nextGeneration g ∧ nextGeneration g ≤ 65535 := by
  unfold nextGeneration
  split <;> omega

theorem generationLaw_of_written {s t : State} {i : SlotIx} {x : Slot} (h : s.GenerationLaw)
    (hw : s.SlotWritten t i x) (hx : 1 ≤ x.generation ∧ x.generation ≤ 65535) :
    t.GenerationLaw := by
  intro k
  rw [hw k]
  split
  · exact hx
  · exact h k

theorem generationLaw_move {s t : State} (hm : Move s t) (h : s.GenerationLaw) :
    t.GenerationLaw := by
  cases hm with
  | effect he =>
    rcases effect_slots he with hk | ⟨i, b, -, hw⟩
    · exact fun k => by rw [hk k]; exact h k
    · exact generationLaw_of_written h hw (h i)
  | opening ho =>
    obtain ⟨i, b, -, -, -, -, -, -, -, -, -, -, hw⟩ := opening_slots ho
    exact generationLaw_of_written h hw (nextGeneration_bounds (h i))

/-! ### Every step keeps the laws of the lease table -/

/-- After a cold start every slot is FREE with generation 1. -/
theorem coldStart_slot (s : State) (supen : Bool) (supsel rate : BitVec 2) (lines : LineLevels)
    (i : SlotIx) : (s.coldStart supen supsel rate lines).slot i = ⟨1, .free⟩ := by
  obtain ⟨hslot, -⟩ :=
    coldState_arrays s.pending s.now s.freeCount (strapSupervisor supen supsel) rate
  rw [coldStart_eq]
  exact hslot i

/-- Settles O57: each law is kept by every move, and holds of a table of FREE slots. -/
theorem leaseLawsKept : Obligations.LeaseLawsKept := by
  intro s t hstep
  refine ⟨step_keeps (P := State.HolderLaw) (fun _ _ h => h) ?_ (fun _ _ => holderLaw_move) hstep,
    step_keeps (P := State.OneSlotLaw) (fun _ _ h => h) ?_ (fun _ _ => oneSlotLaw_move) hstep,
    step_keeps (P := State.GenerationLaw) (fun _ _ h => h) ?_ (fun _ _ => generationLaw_move) hstep⟩ <;>
    intro s supen supsel rate lines i
  · intro j e m n _ hi
    rw [coldStart_slot] at hi
    cases hi
  · intro j l e hi
    rw [coldStart_slot] at hi
    cases hi
  · rw [coldStart_slot]
    decide

end Sys2Proof.Machine

/-! The wait queues and start-up (Sections 2 and 8): the law of one target's queue by how a slot and the queue
change, and the law of start-up; each move keeps them. -/

namespace Sys2Proof.Machine

variable {s t : State} {x : EntryIx} {i : SlotIx}

/-! ### The queue of one target (R29, R30, R33) -/

/-- For the queue of target `x`, a slot with body `b` stands as one with body `a`. -/
structure Alike (x : EntryIx) (a b : SlotBody) : Prop where
  waits : b.waitsOn x = a.waitsOn x
  name : a.waitsOn x = true → b.stateName = a.stateName
  target : b.target? = some x → a.target? = some x ∧ (a.stateName = .ending → b.stateName = .ending)

theorem Alike.refl (x : EntryIx) (a : SlotBody) : Alike x a a := ⟨rfl, fun _ => rfl, fun h => ⟨h, id⟩⟩

theorem target_of_waitsOn {b : SlotBody} (h : b.waitsOn x = true) : b.target? = some x := by
  cases b with
  | waiting w => simpa [SlotBody.waitsOn, SlotBody.target?] using h
  | held h' =>
    simp only [SlotBody.waitsOn, Bool.and_eq_true, decide_eq_true_eq] at h
    exact congrArg some h.1
  | free | ending => cases h

/-- A slot that stands on another target before and after, or is FREE, does not count for `x`. -/
theorem Alike.of_target {a b : SlotBody} (ha : a.target? ≠ some x) (hb : b.target? ≠ some x) :
    Alike x a b := by
  have ha' : a.waitsOn x = false := Bool.eq_false_iff.mpr (mt target_of_waitsOn ha)
  have hb' : b.waitsOn x = false := Bool.eq_false_iff.mpr (mt target_of_waitsOn hb)
  exact ⟨hb'.trans ha'.symm, fun h => absurd (ha'.symm.trans h) nofun, fun h => absurd h hb⟩

/-- The law of a queue that stays, over slots that stand to it as they did. -/
theorem queueLaw_of_alike (h : s.QueueLaw x) (he : t.entry x = s.entry x)
    (hs : ∀ k, Alike x (s.slot k).body (t.slot k).body) : t.QueueLaw x := by
  obtain ⟨hnd, hmem, htail, hbody⟩ := h
  have hname : ∀ k ∈ (s.entry x).waitQueue, (t.slot k).body.stateName = (s.slot k).body.stateName :=
    fun k hk => (hs k).name ((hmem k).mp hk)
  have hcount : t.waitingCount x = s.waitingCount x := by
    unfold State.waitingCount
    rw [he]
    exact List.countP_congr fun k hk => by rw [hname k hk]
  unfold State.QueueLaw
  rw [he, hcount]
  refine ⟨hnd, fun k => (hmem k).trans (by rw [(hs k).waits]),
    fun k hk => (hname k (List.mem_of_mem_tail hk)).trans (htail k hk), ?_⟩
  cases hb : (s.entry x).body with
  | present f => rw [hb] at hbody; exact hbody
  | retiring f =>
    rw [hb] at hbody
    intro k hk
    obtain ⟨hk', hend⟩ := (hs k).target hk
    exact hend (hbody k hk')
  | absent =>
    rw [hb] at hbody
    exact fun k hk => hbody k ((hs k).target hk).1

theorem queueLaw_of_frame (h : s.QueueLaw x) (he : t.entry x = s.entry x)
    (hs : ∀ k, t.slot k = s.slot k) : t.QueueLaw x :=
  queueLaw_of_alike h he fun k => hs k ▸ .refl x _

theorem tail_filter_subset {α : Type} (p : α → Bool) (q : List α) :
    (q.filter p).tail ⊆ q.tail := by
  cases q with
  | nil => exact fun _ h => h
  | cons a q =>
    intro k hk
    by_cases ha : p a = true
    · rw [List.filter_cons_of_pos ha] at hk
      exact (List.mem_filter.mp hk).1
    · rw [List.filter_cons_of_neg ha] at hk
      exact (List.mem_filter.mp (List.mem_of_mem_tail hk)).1

/-- R32: the law of a queue that a slot leaves, where the slot no longer waits. -/
theorem queueLaw_leave {b : Slot} (h : s.QueueLaw x) (hw : s.SlotWritten t i b)
    (he : t.entry x = ⟨(s.entry x).body, (s.entry x).waitQueue.filter fun j => decide (j ≠ i)⟩)
    (hb : b.body.waitsOn x = false)
    (ht : b.body.target? = some x → (s.slot i).body.target? = some x ∧
      ((s.slot i).body.stateName = .ending → b.body.stateName = .ending)) : t.QueueLaw x := by
  obtain ⟨hnd, hmem, htail, hbody⟩ := h
  have hother : ∀ k, k ≠ i → t.slot k = s.slot k := fun k hk => (hw k).trans (if_neg (Ne.symm hk))
  have hself : t.slot i = b := (hw i).trans (if_pos rfl)
  have htarget : ∀ k, (t.slot k).body.target? = some x → (s.slot k).body.target? = some x ∧
      ((s.slot k).body.stateName = .ending → (t.slot k).body.stateName = .ending) := by
    intro k hk
    by_cases hki : k = i
    · subst hki
      rw [hself] at hk ⊢
      exact ht hk
    · rw [hother k hki] at hk ⊢
      exact ⟨hk, id⟩
  unfold State.QueueLaw
  rw [he]
  refine ⟨hnd.filter _, fun k => ?_, fun k hk => ?_, ?_⟩
  · by_cases hki : k = i
    · subst hki
      simp [hself, hb]
    · simp [hother k hki, hki, hmem k]
  · have hki : k ≠ i := by simpa using (List.mem_filter.mp (List.mem_of_mem_tail hk)).2
    rw [hother k hki]
    exact htail k (tail_filter_subset _ _ hk)
  · cases hbd : (s.entry x).body with
    | present f =>
      rw [hbd] at hbody
      refine le_trans ?_ hbody
      unfold State.waitingCount
      rw [he, List.countP_filter]
      refine List.countP_mono_left fun k _ hk => ?_
      simp only [Bool.and_eq_true, decide_eq_true_eq] at hk ⊢
      rw [← hother k hk.2]
      exact hk.1
    | retiring f =>
      rw [hbd] at hbody
      intro k hk
      obtain ⟨hk', hend⟩ := htarget k hk
      exact hend (hbody k hk')
    | absent =>
      rw [hbd] at hbody
      exact fun k hk => hbody k (htarget k hk).1

/-- R37: taking the head off a queue is the head's leaving it. -/
theorem rest_eq_filter {rest : List SlotIx} (h : s.QueueLaw x)
    (hq : (s.entry x).waitQueue = i :: rest) :
    rest = (s.entry x).waitQueue.filter fun j => decide (j ≠ i) := by
  obtain ⟨hnd, -⟩ := h
  rw [hq] at hnd ⊢
  obtain ⟨hi, -⟩ := List.nodup_cons.mp hnd
  rw [List.filter_cons_of_neg (by simp), List.filter_eq_self.mpr]
  intro k hk
  simpa using fun (h : k = i) => hi (h ▸ hk)

/-- The law of an empty queue on an entry that is PRESENT, or on which no slot that is not ENDING
stands. -/
theorem queueLaw_of_empty {b : EntryBody} (he : t.entry x = ⟨b, []⟩)
    (hs : ∀ k, (t.slot k).body.target? = some x → (t.slot k).body.stateName = .ending)
    (hb : b = .absent → ∀ k, (t.slot k).body.target? ≠ some x) : t.QueueLaw x := by
  unfold State.QueueLaw State.waitingCount
  rw [he]
  refine ⟨List.nodup_nil, fun k => ⟨nofun, fun hk => ?_⟩, nofun, ?_⟩
  · have := hs k (target_of_waitsOn hk)
    cases hbk : (t.slot k).body with
    | ending e => rw [hbk] at hk; cases hk
    | free | waiting | held => rw [hbk] at this; cases this
  · cases b with
    | present f => exact Nat.zero_le _
    | retiring f => exact hs
    | absent => exact hb rfl

/-! ### A slot leaves, or keeps its place -/

/-- A slot on target `x` leaves the queue of `x` and waits no more; the queues of other targets stay. -/
theorem queueLaws_leave {b : Slot} {e : EntryIx} (h : ∀ x, s.QueueLaw x) (hw : s.SlotWritten t i b)
    (he : ∀ k, t.entry k = if e = k
      then ⟨(s.entry e).body, (s.entry e).waitQueue.filter fun j => decide (j ≠ i)⟩ else s.entry k)
    (ha : (s.slot i).body.target? = some e) (hn : (s.slot i).body.stateName ≠ .ending)
    (hb : ∀ x, b.body.waitsOn x = false) (ht : b.body = .free ∨ b.body.target? = some e) :
    ∀ x, t.QueueLaw x := by
  intro x
  have htx : b.body.target? = some x → e = x := by
    rcases ht with hf | ht
    · rw [hf]; nofun
    · rw [ht]; exact fun h => Option.some.inj h
  by_cases hx : e = x
  · subst hx
    exact queueLaw_leave (h e) hw ((he e).trans (if_pos rfl)) (hb e)
      fun _ => ⟨ha, fun h => absurd h hn⟩
  · refine queueLaw_of_alike (h x) ((he x).trans (if_neg hx)) fun k => ?_
    rw [hw k]
    by_cases hk : i = k
    · subst hk
      rw [if_pos rfl]
      exact .of_target (by rw [ha]; simpa using hx) fun h => hx (htx h)
    · rw [if_neg hk]
      exact .refl x _

/-- A slot keeps its place in the queues, which stay. -/
theorem queueLaws_keep {b : Slot} (h : ∀ x, s.QueueLaw x) (hw : s.SlotWritten t i b)
    (he : ∀ k, t.entry k = s.entry k) (hb : ∀ x, Alike x (s.slot i).body b.body) :
    ∀ x, t.QueueLaw x := fun x =>
  queueLaw_of_alike (h x) (he x) fun k => by
    rw [hw k]
    by_cases hk : i = k
    · subst hk
      rw [if_pos rfl]
      exact hb x
    · rw [if_neg hk]
      exact .refl x _

theorem queueLaws_of_frame (h : ∀ x, s.QueueLaw x) (he : ∀ k, t.entry k = s.entry k)
    (hs : ∀ k, t.slot k = s.slot k) : ∀ x, t.QueueLaw x := fun x =>
  queueLaw_of_frame (h x) (he x) hs

/-- One entry is written, over slots that stay. -/
theorem queueLaws_setEntry {e : Entry} (h : ∀ x, s.QueueLaw x) (hx : (s.setEntry x e).QueueLaw x) :
    ∀ k, (s.setEntry x e).QueueLaw k := by
  intro k
  by_cases hk : k = x
  · exact hk ▸ hx
  · exact queueLaw_of_frame (h k) (by simp [hk]) fun _ => by simp

/-! ### The queue of an upgrade (R20, R36) -/

/-- R28: where no other slot has an upgrade pending, every slot of the queue is WAITING. -/
theorem waiting_of_otherUpgrade {h : HeldSlot} (hl : s.QueueLaw h.target)
    (hb : (s.slot i).body = .held h) (hu : h.upgrade = none)
    (ho : s.otherUpgrade h.target i = false) {k : SlotIx}
    (hk : k ∈ (s.entry h.target).waitQueue) : k ≠ i ∧ (s.slot k).body.stateName = .waiting := by
  obtain ⟨-, hmem, -⟩ := hl
  have hw := (hmem k).mp hk
  have hki : k ≠ i := by
    rintro rfl
    simp [hb, SlotBody.waitsOn, hu] at hw
  refine ⟨hki, ?_⟩
  cases hbk : (s.slot k).body with
  | waiting w => rfl
  | held g =>
    rw [hbk] at hw
    have : s.otherUpgrade h.target i = true := by
      refine List.any_eq_true.mpr ⟨k, List.mem_finRange k, ?_⟩
      simp only [SlotBody.waitsOn, Bool.and_eq_true, decide_eq_true_eq] at hw
      simp [hbk, hki, hw]
    exact absurd (ho.symm.trans this) nofun
  | free => rw [hbk] at hw; cases hw
  | ending => rw [hbk] at hw; cases hw

theorem queueLaw_upgradeAsked {h : HeldSlot} {d : Nat} (hl : s.QueueLaw h.target)
    (hb : (s.slot i).body = .held h) (hu : h.upgrade = none)
    (ho : s.otherUpgrade h.target i = false) :
    ((s.setBody i (.held { h with upgrade := some d })).setWaitQueue h.target
      (i :: (s.entry h.target).waitQueue)).QueueLaw h.target := by
  have hall := fun k => waiting_of_otherUpgrade (k := k) hl hb hu ho
  obtain ⟨hnd, hmem, -, hbody⟩ := hl
  have hni : i ∉ (s.entry h.target).waitQueue := fun hi => (hall i hi).1 rfl
  have hslot : ∀ k, k ≠ i → ((s.setBody i (.held { h with upgrade := some d })).setWaitQueue h.target
      (i :: (s.entry h.target).waitQueue)).slot k = s.slot k := fun k hk => by
    simp [State.setWaitQueue_eq, State.setBody_eq, hk]
  have hself : (((s.setBody i (.held { h with upgrade := some d })).setWaitQueue h.target
      (i :: (s.entry h.target).waitQueue)).slot i).body = .held { h with upgrade := some d } := by
    simp [State.setWaitQueue_eq, State.setBody_eq]
  have hentry : ((s.setBody i (.held { h with upgrade := some d })).setWaitQueue h.target
      (i :: (s.entry h.target).waitQueue)).entry h.target =
      ⟨(s.entry h.target).body, i :: (s.entry h.target).waitQueue⟩ := by
    simp [State.setWaitQueue_eq, State.setBody_eq]
  generalize ((s.setBody i (.held { h with upgrade := some d })).setWaitQueue h.target
    (i :: (s.entry h.target).waitQueue)) = t at hslot hself hentry
  have hcount : t.waitingCount h.target = s.waitingCount h.target := by
    unfold State.waitingCount
    rw [hentry, List.countP_cons_of_neg (by simp [hself, SlotBody.stateName])]
    exact List.countP_congr fun k hk => by rw [hslot k (hall k hk).1]
  unfold State.QueueLaw
  rw [hcount, hentry]
  refine ⟨List.nodup_cons.mpr ⟨hni, hnd⟩, fun k => ?_, fun k hk => ?_, ?_⟩
  · by_cases hk : k = i
    · subst hk
      simp [hself, SlotBody.waitsOn]
    · simp [hslot k hk, hk, hmem k]
  · have := hall k hk
    rw [hslot k this.1]
    exact this.2
  · have htarget : (s.slot i).body.target? = some h.target := by rw [hb]; rfl
    cases hbd : (s.entry h.target).body with
    | present f => rw [hbd] at hbody; exact hbody
    | retiring f =>
      rw [hbd] at hbody
      have := hbody i htarget
      rw [hb] at this
      cases this
    | absent =>
      rw [hbd] at hbody
      exact absurd htarget (hbody i)

/-! ### Every effect keeps the queues -/

theorem entry_leaveQueue (s : State) (e k : EntryIx) (i : SlotIx) : (s.leaveQueue e i).entry k =
    if e = k then ⟨(s.entry e).body, (s.entry e).waitQueue.filter fun j => decide (j ≠ i)⟩
    else s.entry k := by
  rw [State.leaveQueue, State.setWaitQueue_eq, State.entry_setEntry]

/-- R37: what the grant of a head leaves of the queues. -/
theorem queueLaws_grant {rest : List SlotIx} {h : HeldSlot} (hl : ∀ x, s.QueueLaw x)
    (hq : (s.entry x).waitQueue = i :: rest) (ht : h.target = x) (hu : h.upgrade = none) :
    ∀ k, ((s.setWaitQueue x rest).setBody i (.held h)).QueueLaw k := by
  have hi : (s.slot i).body.waitsOn x = true := ((hl x).2.1 i).mp (by simp [hq])
  refine queueLaws_leave (e := x) hl (i := i) (b := ⟨(s.slot i).generation, .held h⟩)
    (fun k => State.slot_setSlot _ i k _) (fun k => ?_) (target_of_waitsOn hi) (fun hn => ?_)
    (fun k => by simp [SlotBody.waitsOn, hu]) (.inr (congrArg some ht))
  · rw [← rest_eq_filter (hl x) hq, ← State.entry_setEntry]
    rfl
  · cases hb : (s.slot i).body with
    | ending e => rw [hb] at hi; cases hi
    | free | waiting | held => rw [hb] at hn; cases hn

theorem queueLaws_effect (he : Effect s t) (hs : s.StartLaw) (hl : ∀ x, s.QueueLaw x) :
    ∀ x, t.QueueLaw x := by
  cases he with
  | vacated i e ht hn =>
    exact queueLaws_leave (i := i) (b := ⟨(s.slot i).generation, .free⟩) hl
      (fun k => (by simp [State.vacate, State.freeSlot_eq, State.slot_setSlot]))
      (fun k => entry_leaveQueue _ e k i) ht hn (fun _ => rfl) (.inl rfl)
  | ended i h owner cause hb ho =>
    exact queueLaws_leave (i := i) (b := ⟨(s.slot i).generation,
        .ending ⟨owner, h.target, h.mode, h.inFlight, cause⟩⟩) hl
      (fun k => (by simp [State.setBody_eq, State.slot_setSlot]))
      (fun k => entry_leaveQueue _ h.target k i) (by rw [hb]; rfl) (by rw [hb]; nofun)
      (fun _ => rfl) (.inr rfl)
  | upgradeLeft i h hb =>
    exact queueLaws_leave (i := i) (b := ⟨(s.slot i).generation, .held { h with upgrade := none }⟩) hl
      (fun k => (by simp [State.setBody_eq, State.slot_setSlot]))
      (fun k => entry_leaveQueue _ h.target k i) (by rw [hb]; rfl) (by rw [hb]; nofun)
      (fun _ => by simp [SlotBody.waitsOn]) (.inr rfl)
  | detached i e hb =>
    exact queueLaws_keep hl (slotWritten_setBody s i _) (fun _ => rfl) fun x => by
      rw [hb]; exact ⟨rfl, nofun, fun h => ⟨h, fun _ => rfl⟩⟩
  | freed i e hb =>
    exact queueLaws_keep hl (slotWritten_setBody s i _) (fun _ => rfl) fun x => by
      rw [hb]; exact ⟨rfl, nofun, nofun⟩
  | kept i h h' hb ho ht hm hu =>
    exact queueLaws_keep hl (slotWritten_setBody s i _) (fun _ => rfl) fun x => by
      rw [hb]
      exact ⟨by simp [SlotBody.waitsOn, ht, hu], fun _ => rfl,
        fun h => ⟨by simpa [SlotBody.target?, ht] using h, nofun⟩⟩
  | downgraded i h hb =>
    exact queueLaws_keep hl (slotWritten_setBody s i _) (fun _ => rfl) fun x => by
      rw [hb]; exact ⟨rfl, fun _ => rfl, fun h => ⟨h, nofun⟩⟩
  | upgraded i h hb ho =>
    exact queueLaws_keep hl (slotWritten_setBody s i _) (fun _ => rfl) fun x => by
      rw [hb]; exact ⟨rfl, fun _ => rfl, fun h => ⟨h, nofun⟩⟩
  | upgradeAsked i h d hb hu ho =>
    intro x
    by_cases hx : x = h.target
    · exact hx ▸ queueLaw_upgradeAsked (hl h.target) hb hu ho
    · refine queueLaw_of_alike (hl x) (by simp [State.setWaitQueue_eq, State.setBody_eq, hx])
        fun k => ?_
      by_cases hk : k = i
      · subst hk
        refine .of_target ?_ ?_
        · rw [hb]; simpa [SlotBody.target?] using Ne.symm hx
        · simpa [State.setWaitQueue_eq, State.setBody_eq, SlotBody.target?] using Ne.symm hx
      · simpa [State.setWaitQueue_eq, State.setBody_eq, hk] using Alike.refl x (s.slot k).body
  | grantedWaiting e i rest w hq hb hc =>
    have hw := ((hl e).2.1 i).mp (by simp [hq])
    rw [hb] at hw
    exact queueLaws_grant hl hq (of_decide_eq_true hw) rfl
  | grantedUpgrade e i rest h hq hb hu ho =>
    have hw := target_of_waitsOn (((hl e).2.1 i).mp (by simp [hq]))
    rw [hb] at hw
    exact queueLaws_grant hl hq (Option.some.inj hw) rfl
  | gone e f hb hu =>
    refine queueLaws_setEntry hl ?_
    have hno : ∀ k, (s.slot k).body.target? ≠ some e := fun k hk =>
      Bool.eq_false_iff.mp hu (targetInUse_iff.mpr ⟨k, hk⟩)
    obtain ⟨hnd, hmem, htail, -⟩ := hl e
    unfold State.QueueLaw
    rw [State.entry_setEntry_self]
    exact ⟨hnd, hmem, htail, hno⟩
  | retired e f hb hend =>
    refine queueLaws_setEntry hl (queueLaw_of_empty (State.entry_setEntry_self ..) hend ?_)
    split
    · nofun
    · rename_i hu
      exact fun _ k hk => hu (targetInUse_iff.mpr ⟨k, hk⟩)
  | written e f hv hc hu =>
    have hno : ∀ k, (s.slot k).body.target? ≠ some e := by
      intro k hk
      rcases hu with hb | hu | hload
      · have := (hl e).2.2.2
        rw [hb] at this
        exact this k hk
      · exact Bool.eq_false_iff.mp hu (targetInUse_iff.mpr ⟨k, hk⟩)
      · obtain ⟨-, -, hfree⟩ := hs.2 (Option.isSome_iff_ne_none.mp hload)
        rw [hfree k] at hk
        cases hk
    exact queueLaws_setEntry hl (queueLaw_of_empty (State.entry_setEntry_self ..)
      (fun k hk => absurd hk (hno k)) nofun)
  | drainedReload job h hf =>
    obtain ⟨hfree, -⟩ := Bool.and_eq_true _ _ ▸ hf
    have hno : ∀ k, (s.slot k).body = .free := fun k => of_decide_eq_true
      (List.all_eq_true.mp hfree k (List.mem_finRange k))
    intro x
    refine queueLaw_of_empty (b := .absent) (Vector.getElem_replicate _) ?_ fun _ => ?_ <;>
      intro k hk
    · have : (s.slot k).body.target? = some x := hk
      rw [hno k] at this
      cases this
    · have : (s.slot k).body.target? = some x := hk
      rw [hno k] at this
      cases this
  | offered l n => exact queueLaws_of_frame hl (by simp) (by simp)
  | _ => exact queueLaws_of_frame hl (fun _ => rfl) fun _ => rfl

/-! ### Start-up (R134, R147) -/

theorem SlotStep.not_free {b : SlotBody} (h : SlotStep s i b) : (s.slot i).body ≠ .free := by
  cases h with
  | vacated e ht hs => intro hf; rw [hf] at ht; cases ht
  | ended _ _ _ hb | detached _ hb | freed _ hb | kept _ _ hb | downgraded _ hb | upgraded _ _ hb
  | granted _ hb => rw [hb]; nofun

theorem startLaw_of_frame (hs : s.StartLaw) (hp : t.part = s.part) (hr : t.restart = s.restart)
    (hl : t.load = s.load)
    (hf : (∀ k, (s.slot k).body = .free) → ∀ k, (t.slot k).body = .free) : t.StartLaw := by
  unfold State.StartLaw
  rw [hp, hr, hl]
  exact ⟨hs.1, fun h => ⟨(hs.2 h).1, (hs.2 h).2.1, hf (hs.2 h).2.2⟩⟩

/-- No load and no restart is in progress while the part is READY. -/
theorem startLaw_of_ready (hr : t.restart = none) (hl : t.load = none) : t.StartLaw :=
  ⟨fun h => absurd hr h, fun h => absurd hl h⟩

theorem startLaw_effect (he : Effect s t) (hs : s.StartLaw) : t.StartLaw := by
  have hfree : (∀ k, (s.slot k).body = .free) → ∀ k, (t.slot k).body = .free := by
    intro hf k
    rcases effect_slots he with hk | ⟨i, b, hstep, -⟩
    · rw [hk k]; exact hf k
    · exact absurd (hf i) hstep.not_free
  have hload : ∀ job, s.restart = some job → s.load = none := by
    intro job hjob
    by_contra h
    exact absurd ((hs.2 h).2.1.symm.trans hjob) nofun
  cases he with
  | loading j j' h =>
    have := hs.2 (h ▸ nofun)
    exact ⟨hs.1, fun _ => this⟩
  | loaded j h => exact startLaw_of_ready (hs.2 (h ▸ nofun)).2.1 rfl
  | restarting job h =>
    have hl : s.load = none := by
      by_contra hn
      exact absurd (h.symm.trans (hs.2 hn).1) nofun
    exact ⟨fun _ => rfl, fun hn => absurd hl hn⟩
  | tearing job job' h =>
    exact ⟨fun _ => hs.1 (h ▸ nofun), fun hn => absurd (hload job h) hn⟩
  | drainedKeep job h => exact startLaw_of_ready rfl (hload job h)
  | drainedReload job h hf =>
    obtain ⟨hall, -⟩ := Bool.and_eq_true _ _ ▸ hf
    exact ⟨fun hn => absurd rfl hn, fun _ => ⟨hs.1 (h ▸ nofun), rfl, fun k => of_decide_eq_true
      (List.all_eq_true.mp hall k (List.mem_finRange k))⟩⟩
  | offered l n => exact startLaw_of_frame hs (by simp) (by simp) (by simp) hfree
  | _ => exact startLaw_of_frame hs rfl rfl rfl hfree

/-! ### OPEN (R9, R10) -/

/-- A lease granted at once joins a target that is PRESENT and waits for nothing. -/
theorem queueLaw_openHeld {b : Slot} {f : TargetFields} (hl : s.QueueLaw x)
    (hw : s.SlotWritten t i b) (he : t.entry x = s.entry x) (hf : (s.slot i).body = .free)
    (hp : (s.entry x).body = .present f) (hb : b.body.waitsOn x = false) : t.QueueLaw x := by
  have hk : ∀ k, (t.slot k).body.waitsOn x = (s.slot k).body.waitsOn x ∧
      ((s.slot k).body.waitsOn x = true → (t.slot k).body.stateName = (s.slot k).body.stateName) := by
    intro k
    rw [hw k]
    by_cases hik : i = k
    · subst hik
      rw [if_pos rfl, hf, hb]
      exact ⟨rfl, nofun⟩
    · rw [if_neg hik]
      exact ⟨rfl, fun _ => rfl⟩
  obtain ⟨hnd, hmem, htail, hbody⟩ := hl
  rw [hp] at hbody
  have hcount : t.waitingCount x = s.waitingCount x := by
    unfold State.waitingCount
    rw [he]
    exact List.countP_congr fun k hq => by rw [(hk k).2 ((hmem k).mp hq)]
  unfold State.QueueLaw
  rw [he, hp, hcount]
  refine ⟨hnd, fun k => by rw [hmem k, (hk k).1], fun k hq => ?_, hbody⟩
  rw [(hk k).2 ((hmem k).mp (List.mem_of_mem_tail hq))]
  exact htail k hq

/-- R10: a FREE slot that becomes WAITING joins the tail of a queue with room. -/
theorem queueLaw_join {g : Nat} {w : WaitingSlot} {f : TargetFields} (hl : s.QueueLaw w.target)
    (hw : s.SlotWritten t i ⟨g, .waiting w⟩) (hf : (s.slot i).body = .free)
    (he : t.entry w.target = ⟨(s.entry w.target).body, (s.entry w.target).waitQueue ++ [i]⟩)
    (hp : (s.entry w.target).body = .present f) (hq : s.waitingCount w.target < f.qlim) :
    t.QueueLaw w.target := by
  obtain ⟨hnd, hmem, htail, hbody⟩ := hl
  have hni : i ∉ (s.entry w.target).waitQueue := fun hi => by
    have := (hmem i).mp hi
    rw [hf] at this
    cases this
  have hother : ∀ k, k ≠ i → t.slot k = s.slot k := fun k hk => (hw k).trans (if_neg (Ne.symm hk))
  have hself : (t.slot i).body = .waiting w := by rw [hw i, if_pos rfl]
  have hin : ∀ k ∈ (s.entry w.target).waitQueue, k ≠ i := fun k hk h => hni (h ▸ hk)
  have hcount : t.waitingCount w.target = s.waitingCount w.target + 1 := by
    unfold State.waitingCount
    rw [he, List.countP_append, List.countP_singleton, hself]
    congr 1
    exact List.countP_congr fun k hk => by rw [hother k (hin k hk)]
  unfold State.QueueLaw
  rw [hcount, he, hp]
  refine ⟨?_, fun k => ?_, fun k hk => ?_, hq⟩
  · exact List.nodup_append.mpr ⟨hnd, List.nodup_singleton i,
      fun a ha b hb => by rw [List.mem_singleton.mp hb]; exact hin a ha⟩
  · by_cases hk : k = i
    · subst hk
      simp [hself, SlotBody.waitsOn]
    · simp [hother k hk, hk, hmem k]
  · have hk' : k = i ∨ k ∈ (s.entry w.target).waitQueue.tail := by
      cases hqq : (s.entry w.target).waitQueue with
      | nil => rw [hqq] at hk; cases hk
      | cons a q =>
        rw [hqq] at hk
        simpa [or_comm] using hk
    rcases hk' with rfl | hk'
    · rw [hself]; rfl
    · rw [hother k (hin k (List.mem_of_mem_tail hk'))]
      exact htail k hk'

theorem waitLaw_opening (ho : Opening s t) (h : s.WaitLaw) : t.WaitLaw := by
  obtain ⟨hl, hs⟩ := h
  have hready : s.part = .ready → s.restart = none ∧ s.load = none := fun hp =>
    ⟨by by_contra hn; exact absurd ((hs.1 hn).symm.trans hp) nofun,
      by by_contra hn; exact absurd ((hs.2 hn).1.symm.trans hp) nofun⟩
  cases ho with
  | held i l e m term now f hf hp ht hl' ho hg =>
    refine ⟨fun x => ?_, startLaw_of_ready (hready hp).1 (hready hp).2⟩
    have hw : s.SlotWritten (s.leaveFree i (.held (grantedSlot l e m term now))) i _ :=
      fun k => State.slot_setSlot s i k _
    by_cases hx : x = e
    · subst hx
      exact queueLaw_openHeld (hl x) hw rfl hf ht (by simp [SlotBody.waitsOn, grantedSlot])
    · refine queueLaw_of_alike (hl x) rfl fun k => ?_
      rw [hw k]
      by_cases hk : i = k
      · subst hk
        rw [if_pos rfl, hf]
        exact .of_target nofun (by simpa [SlotBody.target?, grantedSlot] using Ne.symm hx)
      · rw [if_neg hk]
        exact .refl x _
  | waiting i w f hf hp ht hl' ho hq =>
    refine ⟨fun x => ?_, startLaw_of_ready (hready hp).1 (hready hp).2⟩
    have hw : s.SlotWritten ((s.leaveFree i (.waiting w)).setWaitQueue w.target
        ((s.entry w.target).waitQueue ++ [i])) i _ := fun k => State.slot_setSlot s i k _
    by_cases hx : x = w.target
    · subst hx
      exact queueLaw_join (hl _) hw hf (by simp [State.setWaitQueue_eq, State.leaveFree]) ht hq
    · refine queueLaw_of_alike (hl x) (by simp [State.setWaitQueue_eq, State.leaveFree, hx])
        fun k => ?_
      rw [hw k]
      by_cases hk : i = k
      · subst hk
        rw [if_pos rfl, hf]
        exact .of_target nofun (by simpa [SlotBody.target?] using Ne.symm hx)
      · rw [if_neg hk]
        exact .refl x _

theorem waitLaw_move (hm : Move s t) (h : s.WaitLaw) : t.WaitLaw := by
  cases hm with
  | effect he => exact ⟨queueLaws_effect he h.2 h.1, startLaw_effect he h.2⟩
  | opening ho => exact waitLaw_opening ho h

/-! ### The catalogue (R49, R50, R52, R54) -/

/-- An entry takes fields that clash with none, or loses its own. -/
theorem catalogueLaw_setEntry {e : Entry} (h : s.CatalogueLaw)
    (he : ∀ f, e.body.fields? = some f → (s.entry x).body.fields? = some f ∨
      f.valid = true ∧ s.clashes x f = false) : (s.setEntry x e).CatalogueLaw := by
  obtain ⟨hvalid, hclash, hrights⟩ := h
  have hfields : ∀ k f, ((s.setEntry x e).entry k).body.fields? = some f →
      (s.entry k).body.fields? = some f ∨ k = x ∧ f.valid = true ∧ s.clashes x f = false := by
    intro k f hf
    rw [State.entry_setEntry] at hf
    split at hf
    · rename_i hk
      subst hk
      exact (he f hf).imp id fun h => ⟨rfl, h⟩
    · exact .inl hf
  -- new fields differ from those of every other entry
  have hnew : ∀ k f g, s.clashes x f = false → (s.entry k).body.fields? = some g → f.bus = g.bus →
      f.address = g.address → x = k := by
    intro k f g hc hg hb ha
    by_contra hk
    exact Bool.eq_false_iff.mp hc (clashes_iff.mpr ⟨k, g, Ne.symm hk, hg, hb.symm, ha.symm⟩)
  refine ⟨fun k f hf => ?_, fun k u f g hf hg hb ha => ?_, hrights⟩
  · rcases hfields k f hf with h | ⟨-, h, -⟩
    · exact hvalid k f h
    · exact h
  · rcases hfields k f hf with hf' | ⟨hk, -, hcf⟩ <;> rcases hfields u g hg with hg' | ⟨hu, -, hcg⟩
    · exact hclash k u f g hf' hg' hb ha
    · exact (hu.trans (hnew k g f hcg hf' hb.symm ha.symm)).symm
    · exact hk.trans (hnew u f g hcf hg' hb ha)
    · exact hk.trans hu.symm

theorem catalogueLaw_of_frame (h : s.CatalogueLaw) (he : ∀ k, (t.entry k).body = (s.entry k).body)
    (hr : ∀ k, t.rightsOf k = s.rightsOf k) : t.CatalogueLaw := by
  unfold State.CatalogueLaw
  simp only [he, hr]
  exact h

/-- A change of a wait queue leaves the catalogue. -/
theorem entry_setWaitQueue_body (s : State) (e k : EntryIx) (q : List SlotIx) :
    ((s.setWaitQueue e q).entry k).body = (s.entry k).body := by
  rw [State.setWaitQueue_eq, State.entry_setEntry]
  split
  · rename_i h; rw [h]
  · rfl

theorem defaultRights_valid (sup : Option Link) (l : Link) : (defaultRights sup l).valid = true := by
  unfold defaultRights
  split <;> decide

/-- An empty catalogue with default rights is lawful. -/
theorem catalogueLaw_of_empty (he : ∀ k, (t.entry k).body = .absent)
    (hr : ∀ k, t.rightsOf k = defaultRights t.supervisor k) : t.CatalogueLaw := by
  refine ⟨fun k f hf => ?_, fun k _ f _ hf => ?_, fun l => ?_⟩
  · rw [he k] at hf; cases hf
  · rw [he k] at hf; cases hf
  · rw [hr l]; exact defaultRights_valid _ l

theorem allDefaultRights_get (sup : Option Link) (l : Link) :
    (allDefaultRights sup)[l] = defaultRights sup l := by
  fin_cases l <;> rfl

theorem catalogueLaw_move (hm : Move s t) (h : s.CatalogueLaw) : t.CatalogueLaw := by
  cases hm with
  | opening ho =>
    cases ho with
    | held => exact catalogueLaw_of_frame h (fun _ => rfl) fun _ => rfl
    | waiting => exact catalogueLaw_of_frame h (entry_setWaitQueue_body _ _ · _) fun _ => rfl
  | effect he =>
    cases he with
    | gone e f hb hu => exact catalogueLaw_setEntry h nofun
    | retired e f hb hs =>
      refine catalogueLaw_setEntry h fun g hg => .inl ?_
      rw [hb]
      split at hg
      · exact hg
      · cases hg
    | written e f hv hc hu =>
      refine catalogueLaw_setEntry h fun g hg => .inr ?_
      cases hg
      exact ⟨hv, hc⟩
    | rights l r hv =>
      obtain ⟨hvalid, hclash, hrights⟩ := h
      refine ⟨hvalid, hclash, fun k => ?_⟩
      rw [State.rightsOf_setRights]
      split
      · exact hv
      · exact hrights k
    | drainedReload job hr hf =>
      exact catalogueLaw_of_empty
        (fun k => congrArg Entry.body (Vector.getElem_replicate (a := (⟨.absent, []⟩ : Entry)) k.isLt))
        fun k => allDefaultRights_get s.supervisor k
    | vacated i e ht hs => exact catalogueLaw_of_frame h (entry_setWaitQueue_body _ _ · _) fun _ => rfl
    | ended i g owner cause hb ho =>
      exact catalogueLaw_of_frame h (entry_setWaitQueue_body _ _ · _) fun _ => rfl
    | upgradeAsked i g d hb hu ho =>
      exact catalogueLaw_of_frame h (entry_setWaitQueue_body _ _ · _) fun _ => rfl
    | upgradeLeft i g hb => exact catalogueLaw_of_frame h (entry_setWaitQueue_body _ _ · _) fun _ => rfl
    | grantedWaiting e i rest w hq hb hc =>
      exact catalogueLaw_of_frame h (entry_setWaitQueue_body s e · rest) fun _ => rfl
    | grantedUpgrade e i rest g hq hb hu ho =>
      exact catalogueLaw_of_frame h (entry_setWaitQueue_body s e · rest) fun _ => rfl
    | offered l n => exact catalogueLaw_of_frame h (by simp) (by simp)
    | _ => exact catalogueLaw_of_frame h (fun _ => rfl) fun _ => rfl

/-! ### Every step keeps the two laws -/

theorem coldStart_waitLaw (s : State) (supen : Bool) (supsel rate : BitVec 2) (lines : LineLevels) :
    (s.coldStart supen supsel rate lines).WaitLaw := by
  obtain ⟨hslot, hentry, -⟩ :=
    coldState_arrays s.pending s.now s.freeCount (strapSupervisor supen supsel) rate
  have hfree := fun k => congrArg Slot.body (coldStart_slot s supen supsel rate lines k)
  refine ⟨fun x => queueLaw_of_empty (b := .absent) ?_ ?_ fun _ => ?_, fun h => absurd ?_ h,
    fun _ => ⟨?_, ?_, hfree⟩⟩
  · rw [coldStart_eq]; exact hentry x
  · intro k hk; rw [hfree k] at hk; cases hk
  · intro k hk; rw [hfree k] at hk; cases hk
  all_goals rw [coldStart_eq]; rfl

theorem coldStart_catalogueLaw (s : State) (supen : Bool) (supsel rate : BitVec 2)
    (lines : LineLevels) : (s.coldStart supen supsel rate lines).CatalogueLaw := by
  obtain ⟨-, hentry, hrights, -⟩ :=
    coldState_arrays s.pending s.now s.freeCount (strapSupervisor supen supsel) rate
  rw [coldStart_eq]
  exact catalogueLaw_of_empty (fun k => congrArg Entry.body (hentry k)) hrights

/-- Settles O58: each law is kept by every move and holds after a cold start. -/
theorem queueAndCatalogueLawsKept : Obligations.QueueAndCatalogueLawsKept := fun _ _ hstep =>
  ⟨step_keeps (P := State.WaitLaw) (fun _ _ h => h) coldStart_waitLaw (fun _ _ => waitLaw_move) hstep,
    step_keeps (P := State.CatalogueLaw) (fun _ _ h => h) coldStart_catalogueLaw
      (fun _ _ => catalogueLaw_move) hstep⟩

end Sys2Proof.Machine

/-! Notices, CLOSED sessions and link units (Sections 6, 7 and 9): what an offered notice, and a session that
begins or ends, leave of the laws of the notice unit and of the link; each move keeps the three laws. -/

namespace Sys2Proof.Machine

variable {s t : State} {l : Link}

/-! ### The queue of a notice unit (R126 to R128) -/

theorem insertNotice_perm (n : Notice) (q : List Notice) : (insertNotice n q).Perm (n :: q) := by
  induction q with
  | nil => exact .refl _
  | cons m q ih =>
    unfold insertNotice
    split
    · exact (ih.cons m).trans (.swap n m q)
    · exact .refl _

theorem insertNotice_sorted {q : List Notice} (n : Notice) (h : q.Pairwise fun a b => a.cls ≤ b.cls) :
    (insertNotice n q).Pairwise fun a b => a.cls ≤ b.cls := by
  rw [insertNotice_eq n h]
  refine List.pairwise_append.mpr ⟨h.filter _, List.pairwise_cons.mpr ⟨fun m hm => ?_, h.filter _⟩,
    fun a ha b hb => ?_⟩
  · exact (of_decide_eq_true (List.mem_filter.mp hm).2).le
  · have ha' : a.cls ≤ n.cls := of_decide_eq_true (List.mem_filter.mp ha).2
    rcases List.mem_cons.mp hb with rfl | hb
    · exact ha'
    · exact ha'.trans (of_decide_eq_true (List.mem_filter.mp hb).2).le

theorem matches_symm {m n : Notice} (h : m.matches n = false) : n.matches m = false := by
  rw [Bool.eq_false_iff, Ne, Notice.matches_iff] at h ⊢
  exact fun ⟨hk, hs⟩ => h ⟨hk.symm, hs.symm⟩

theorem insertNotice_unmatched {n : Notice} {q : List Notice}
    (h : q.Pairwise fun a b => a.matches b = false) (hn : ∀ m ∈ q, n.matches m = false) :
    (insertNotice n q).Pairwise fun a b => a.matches b = false :=
  ((insertNotice_perm n q).pairwise_iff fun h => matches_symm h).mpr
    (List.pairwise_cons.mpr ⟨hn, h⟩)

/-- What `NoticeUnit.Lawful` asks of the queue alone. -/
def QueueLawful (q : List Notice) : Prop :=
  q.length ≤ 8 ∧ (q.Pairwise fun m n => m.cls ≤ n.cls) ∧ q.Pairwise fun m n => m.matches n = false

theorem QueueLawful.sublist {q r : List Notice} (h : QueueLawful q) (hr : r.Sublist q) :
    QueueLawful r :=
  ⟨hr.length_le.trans h.1, h.2.1.sublist hr, h.2.2.sublist hr⟩

theorem QueueLawful.insert {n : Notice} {q : List Notice} (h : QueueLawful q) (hlen : q.length < 8)
    (hn : ∀ m ∈ q, n.matches m = false) : QueueLawful (insertNotice n q) :=
  ⟨by rw [(insertNotice_perm n q).length_eq]; exact hlen, insertNotice_sorted n h.2.1,
    insertNotice_unmatched h.2.2 hn⟩

/-- R126 to R128: an offered notice leaves a lawful queue lawful. -/
theorem QueueLawful.offer {u : NoticeUnit} (h : QueueLawful u.queue) (n : Notice) :
    QueueLawful (u.offer n).queue := by
  unfold NoticeUnit.offer
  split
  · exact h
  · rename_i hany
    have hn : ∀ m ∈ u.queue, n.matches m = false := fun m hm =>
      Bool.eq_false_iff.mpr (List.any_eq_false.mp (Bool.eq_false_iff.mpr hany) m hm)
    split
    · rename_i hroom
      exact h.insert hroom hn
    · split
      · rename_i last hlast
        split
        · have hlen : u.queue.dropLast.length < 8 := by
            have := h.1
            have := List.length_pos_of_mem (List.mem_of_getLast? hlast)
            rw [List.length_dropLast]
            omega
          exact (h.sublist (List.dropLast_sublist _)).insert hlen
            fun m hm => hn m (List.mem_of_mem_dropLast hm)
        · exact h
      · exact h

/-! ### The notice unit by its queue and its session -/

theorem not_closed_of_open {x : Session} (h : x.isOpen = true) : x.isClosed = false := by
  cases x with
  | opened key => rfl
  | closed | suspended => cases h

/-- A unit of a session that is not CLOSED, with ATTN as R130 gives it. -/
theorem lawful_of_attn {u : NoticeUnit} {ss : Session} (hq : QueueLawful u.queue)
    (ha : u.attn = attnLevel ss u.queue) (hs : ss.isClosed = false) : u.Lawful ss :=
  ⟨hq.1, hq.2.1, hq.2.2, by rw [ha]; simp [attnLevel], fun h => absurd (h.symm.trans hs) nofun⟩

theorem lawful_empty (ss : Session) : NoticeUnit.Lawful ⟨[], false, false⟩ ss :=
  ⟨Nat.zero_le _, .nil, .nil, by simp, fun _ => ⟨rfl, rfl⟩⟩

theorem queueLawful_of_lawful {u : NoticeUnit} {ss : Session} (h : u.Lawful ss) :
    QueueLawful u.queue := ⟨h.1, h.2.1, h.2.2.1⟩

/-- The notices and the session of one link change, those of other links stay. -/
theorem noticeLaw_of_link (h : s.NoticeLaw) (hk : ∀ k, k ≠ l → t.notice k = s.notice k ∧
    t.session k = s.session k) (hl : (t.notice l).Lawful (t.session l)) : t.NoticeLaw := by
  intro k
  by_cases hkl : k = l
  · exact hkl ▸ hl
  · rw [(hk k hkl).1, (hk k hkl).2]
    exact h k

theorem noticeLaw_of_frame (h : s.NoticeLaw) (hn : ∀ k, t.notice k = s.notice k)
    (hs : ∀ k, t.session k = s.session k) : t.NoticeLaw := fun k => by
  rw [hn k, hs k]
  exact h k

theorem noticeLaw_offer (h : s.NoticeLaw) (l : Link) (n : Notice) : (s.offerNotice l n).NoticeLaw := by
  by_cases hc : s.session l = .closed
  · rw [offerNotice_closed hc]
    exact h
  · rw [offerNotice_of_offer hc rfl]
    refine noticeLaw_of_link h (l := l) (fun k hk => by simp [hk]) ?_
    simp only [State.notice_setNotice_self, State.setNotice_frame]
    refine lawful_of_attn ((queueLawful_of_lawful (h l)).offer n) rfl ?_
    cases hss : s.session l with
    | closed => exact absurd hss hc
    | opened | suspended => rfl

/-- R111, R116.3: a session begins or ends with nothing in its notice unit. -/
theorem noticeLaw_restart (h : s.NoticeLaw) (l : Link) (x : Session) :
    ((s.clearNotices l).putSession l x).NoticeLaw := by
  refine noticeLaw_of_link h (l := l) (fun k hk => ?_) ?_
  · simp [putSession_eq, State.clearNotices, hk]
  · have : ((s.clearNotices l).putSession l x).notice l = ⟨[], false, false⟩ := by
      simp [putSession_eq, State.clearNotices, attnLevel]
    rw [this]
    exact lawful_empty _

/-- R112, R113: a session is resumed or suspended with its notices kept. -/
theorem noticeLaw_putSession (h : s.NoticeLaw) (l : Link) {x : Session} (hx : x.isClosed = false) :
    (s.putSession l x).NoticeLaw := by
  refine noticeLaw_of_link h (l := l) (fun k hk => by simp [putSession_eq, hk]) ?_
  have hq : QueueLawful (s.notice l).queue := queueLawful_of_lawful (h l)
  simp only [putSession_eq, State.notice_setNotice_self, State.setNotice_frame,
    State.session_setSession_self]
  exact lawful_of_attn hq rfl hx

theorem noticeLaw_collected (h : s.NoticeLaw) (n : Nat) (hs : (s.session l).isOpen = true) :
    ((s.setNotice l { s.notice l with queue := (s.notice l).queue.drop n, overrun := false }
      ).refreshAttn l).NoticeLaw := by
  refine noticeLaw_of_link h (l := l) (fun k hk => by simp [State.refreshAttn, hk]) ?_
  simp only [State.refreshAttn, State.notice_setNotice_self, State.setNotice_frame]
  refine lawful_of_attn ((queueLawful_of_lawful (h l)).sublist (List.drop_sublist n _)) rfl
    (not_closed_of_open hs)

theorem noticeLaw_move (hm : Move s t) (h : s.NoticeLaw) : t.NoticeLaw := by
  cases hm with
  | opening ho =>
    cases ho with
    | held | waiting => exact noticeLaw_of_frame h (fun _ => rfl) fun _ => rfl
  | effect he =>
    cases he with
    | offered l n => exact noticeLaw_offer h l n
    | collected l n hs => exact noticeLaw_collected h n hs
    | closed l hown hclean => exact noticeLaw_restart h l _
    | opened l key hr => exact noticeLaw_restart h l _
    | resumed l key d hs hr => exact noticeLaw_putSession h l rfl
    | suspended l key d hs => exact noticeLaw_putSession h l rfl
    | _ => exact noticeLaw_of_frame h (fun _ => rfl) fun _ => rfl

/-! ### CLOSED sessions (R4, R81, R116) -/

theorem session_putSession (s : State) (l k : Link) (x : Session) :
    (s.putSession l x).session k = if l = k then x else s.session k := by
  simp only [putSession_eq, State.setNotice_frame, State.session_setSession]

/-- A session that was CLOSED before owns as little as it did. -/
theorem closedLaw_of_frame (h : s.ClosedLaw)
    (hs : ∀ l, (t.session l).isClosed = true → (s.session l).isClosed = true)
    (ho : ∀ l, (t.session l).isClosed = true → (∀ i, (s.slot i).body.owner? ≠ some l) →
      ∀ i, (t.slot i).body.owner? ≠ some l)
    (hc : ∀ l, (t.session l).isClosed = true → s.Clean l → t.Clean l) : t.ClosedLaw := by
  intro l hl
  obtain ⟨hown, hclean⟩ := h l (hs l hl)
  exact ⟨ho l hl hown, hc l hl hclean⟩

theorem owner_effect (he : Effect s t) (l : Link) (h : ∀ i, (s.slot i).body.owner? ≠ some l) :
    ∀ i, (t.slot i).body.owner? ≠ some l := by
  intro i hi
  rcases effect_slots he with hk | ⟨j, b, hstep, hw⟩
  · exact h i (hk i ▸ hi)
  · rw [hw i] at hi
    split at hi
    · rename_i hj
      exact h j (hstep.owner hi).1
    · exact h i hi

theorem closedLaw_move (hm : Move s t) (h : s.ClosedLaw) : t.ClosedLaw := by
  cases hm with
  | opening ho =>
    obtain ⟨i, b, l, x, -, hbl, -, hopen, -, -, -, -, hw⟩ := opening_slots ho
    have hframe : (∀ k, t.session k = s.session k) ∧ ∀ k, s.Clean k → t.Clean k := by
      cases ho with
      | held | waiting => exact ⟨fun _ => rfl, fun _ hc => hc⟩
    refine closedLaw_of_frame h (fun k hk => hframe.1 k ▸ hk) (fun k hk hown j hj => ?_)
      fun k _ hc => hframe.2 k hc
    rw [hw j] at hj
    split at hj
    · have : l = k := Option.some.inj (hbl.symm.trans hj)
      subst this
      rw [hframe.1 l] at hk
      exact absurd (not_closed_of_open hopen) (by simp [hk])
    · exact hown j hj
  | effect he =>
    have hown := owner_effect he
    cases he with
    | pool pool done job count now report image hnow hclean =>
      exact closedLaw_of_frame h (fun _ hl => hl) (fun l _ => hown l) hclean
    | closed l howned hclean =>
      intro k hk
      by_cases hkl : l = k
      · subst hkl
        exact ⟨howned, hclean⟩
      · have hk' : (s.session k).isClosed = true := by
          simpa [session_putSession, hkl] using hk
        exact h k hk'
    | opened l key hr =>
      refine closedLaw_of_frame h (fun k hk => ?_) (fun l _ => hown l) fun _ _ hc => hc
      by_cases hkl : l = k
      · simp [session_putSession, hkl, Session.isClosed] at hk
      · simpa [session_putSession, hkl] using hk
    | resumed l key d hs hr =>
      refine closedLaw_of_frame h (fun k hk => ?_) (fun l _ => hown l) fun _ _ hc => hc
      by_cases hkl : l = k
      · simp [session_putSession, hkl, Session.isClosed] at hk
      · simpa [session_putSession, hkl] using hk
    | suspended l key d hs =>
      refine closedLaw_of_frame h (fun k hk => ?_) (fun l _ => hown l) fun _ _ hc => hc
      by_cases hkl : l = k
      · simp [session_putSession, hkl, Session.isClosed] at hk
      · simpa [session_putSession, hkl] using hk
    | offered l n =>
      exact closedLaw_of_frame h (by simp) (fun l _ => hown l) fun k _ hc => by
        simpa [State.Clean] using hc
    | _ => exact closedLaw_of_frame h (fun _ hl => hl) (fun l _ => hown l) fun _ _ hc => hc

/-! ### Link units (R108, R150 to R158) -/

/-- A link unit's law looks at its session only to say that a DOWN link has no OPEN one. -/
theorem linkLawful_of_session {u : LinkUnit} {a b : Session} (h : u.Lawful a)
    (hb : u.line = .down → b.isOpen = false) : u.Lawful b := by
  obtain ⟨h1, h2, h3, h4, h5, h6, h7, h8, h9⟩ := h
  refine ⟨h1, h2, h3, h4, h5, h6, h7, h8, fun hd => ?_⟩
  obtain ⟨d1, d2, d3, d4, d5, d6, d7, -⟩ := h9 hd
  exact ⟨d1, d2, d3, d4, d5, d6, d7, hb hd⟩

/-- R150: a place is reserved on an UP link alone. -/
theorem line_of_reserved {u : LinkUnit} {ss : Session} (h : u.Lawful ss) (hr : u.reserved = true) :
    u.line ≠ .down := by
  obtain ⟨-, -, -, -, -, -, -, -, h9⟩ := h
  intro hd
  obtain ⟨-, -, -, -, d5, -⟩ := h9 hd
  exact absurd (d5.symm.trans hr) nofun

theorem linkLaw_of_sessions (h : s.LinkLaw) (hk : ∀ k, t.link k = s.link k)
    (hs : ∀ k, t.session k = s.session k ∨ (t.session k).isOpen = false ∨
      (s.link k).reserved = true) : t.LinkLaw := by
  intro k
  rw [hk k]
  refine linkLawful_of_session (h k) fun hd => ?_
  rcases hs k with he | hc | hr
  · obtain ⟨-, -, -, -, -, -, -, -, h9⟩ := h k
    rw [he]
    exact (h9 hd).2.2.2.2.2.2.2
  · exact hc
  · exact absurd hd (line_of_reserved (h k) hr)

/-- One session is written, CLOSED, SUSPENDED, or OPEN where a place is kept on its link. -/
theorem linkLaw_putSession {v : State} (h : s.LinkLaw) (hk : ∀ k, v.link k = s.link k)
    (hv : ∀ k, v.session k = s.session k) {x : Session}
    (hx : x.isOpen = false ∨ (s.link l).reserved = true) : (v.putSession l x).LinkLaw := by
  refine linkLaw_of_sessions h (fun k => by simp [hk]) fun k => ?_
  rw [session_putSession]
  split
  · rename_i hlk
    exact hlk ▸ .inr hx
  · exact .inl (hv k)

theorem linkLaw_move (hm : Move s t) (h : s.LinkLaw) : t.LinkLaw := by
  cases hm with
  | opening ho =>
    cases ho with
    | held | waiting => exact linkLaw_of_sessions h (fun _ => rfl) fun _ => .inl rfl
  | effect he =>
    cases he with
    | link l u hu =>
      intro k
      rw [State.link_setLink]
      split
      · rename_i hk
        exact hk ▸ hu (h l)
      · exact h k
    | closed l hown hclean => exact linkLaw_putSession h (by simp) (by simp) (.inl rfl)
    | opened l key hr => exact linkLaw_putSession h (by simp) (by simp) (.inr hr)
    | resumed l key d hs hr => exact linkLaw_putSession h (by simp) (by simp) (.inr hr)
    | suspended l key d hs => exact linkLaw_putSession h (by simp) (by simp) (.inl rfl)
    | offered l n => exact linkLaw_of_sessions h (by simp) (by simp)
    | _ => exact linkLaw_of_sessions h (fun _ => rfl) fun _ => .inl rfl

/-! ### Every step keeps the three laws -/

section Cold

variable (s : State) (supen : Bool) (supsel rate : BitVec 2) (lines : LineLevels)

theorem coldStart_session (l : Link) : (s.coldStart supen supsel rate lines).session l = .closed := by
  obtain ⟨-, -, -, -, -, -, -, hsession, -⟩ :=
    coldState_arrays s.pending s.now s.freeCount (strapSupervisor supen supsel) rate
  rw [coldStart_eq]
  exact hsession l

theorem coldStart_noticeLaw : (s.coldStart supen supsel rate lines).NoticeLaw := by
  obtain ⟨-, -, -, -, -, -, -, -, hnotice, -⟩ :=
    coldState_arrays s.pending s.now s.freeCount (strapSupervisor supen supsel) rate
  intro l
  have : (s.coldStart supen supsel rate lines).notice l = ⟨[], false, false⟩ := by
    rw [coldStart_eq]
    exact hnotice l
  rw [this]
  exact lawful_empty _

theorem coldStart_closedLaw : (s.coldStart supen supsel rate lines).ClosedLaw := by
  obtain ⟨-, -, -, hrecord, hdone, -⟩ :=
    coldState_arrays s.pending s.now s.freeCount (strapSupervisor supen supsel) rate
  refine fun l _ => ⟨fun i => ?_, fun p r hr => ?_, ?_⟩
  · rw [coldStart_slot]; nofun
  · rw [coldStart_eq] at hr
    exact absurd ((hrecord p).symm.trans hr) nofun
  · rw [coldStart_eq]
    exact hdone l

theorem coldStart_linkLaw : (s.coldStart supen supsel rate lines).LinkLaw := by
  obtain ⟨-, -, -, -, -, -, -, -, -, hlink⟩ :=
    coldState_arrays s.pending s.now s.freeCount (strapSupervisor supen supsel) rate
  intro l
  have : (s.coldStart supen supsel rate lines).link l = coldLink s.now := by
    rw [coldStart_eq]
    exact hlink l
  rw [this, coldStart_session]
  simp [LinkUnit.Lawful, coldLink, LinkUnit.placesTaken, rejectLawful, Framer.lawful, Session.isOpen]

end Cold

/-- Settles O59: each law is kept by every move and holds after a cold start. -/
theorem sessionAndLinkLawsKept : Obligations.SessionAndLinkLawsKept := fun _ _ hstep =>
  ⟨step_keeps (P := State.NoticeLaw) (fun _ _ h => h) coldStart_noticeLaw (fun _ _ => noticeLaw_move)
      hstep,
    step_keeps (P := State.ClosedLaw) (fun _ _ h => h) coldStart_closedLaw (fun _ _ => closedLaw_move)
      hstep,
    step_keeps (P := State.LinkLaw) (fun _ _ h => h) coldStart_linkLaw (fun _ _ => linkLaw_move) hstep⟩

end Sys2Proof.Machine

/-! The transaction unit (Section 4), first half: its law with some records taken off their queues and
engines (`TxLaw`), what leaves it as it is (`Quiet`), and the completion of a record. -/

namespace Sys2Proof.Machine

variable {s t u : State} {W : Prop} {T : Option Link} {L : List PoolIx} {p : PoolIx} {r : Record}

/-! ### The law with loose records -/

/-- `State.FlightLaw` in the course of the teardown of the session of `T`: the destination of an ACTIVE
record may be gone while its slot still has its owner (R81, R117). -/
def State.FlightLawIn (s : State) (T : Option Link) : Prop :=
  (∀ i p, (s.slot i).body.inFlight? = some p → ∃ r, s.record p = some r ∧ r.state ≠ .done ∧
    r.handle = some ⟨i, (s.slot i).generation⟩ ∧ (r.destination = (s.slot i).body.owner? ∨
      r.destination = none ∧ r.state = .active ∧ T ≠ none ∧ (s.slot i).body.owner? = T)) ∧
  (∀ p r h, s.record p = some r → r.state ≠ .done → r.handle = some h →
    (s.slot h.slot).body.inFlight? = some p ∧ (s.slot h.slot).generation = h.generation) ∧
  ∀ i e, (s.slot i).body = .ending e →
    ∃ p r, e.inFlight = some p ∧ s.record p = some r ∧ r.state = .active ∧ r.stopRequested = true

theorem flightLawIn_none : s.FlightLawIn none ↔ s.FlightLaw := by
  simp [State.FlightLawIn, State.FlightLaw]

/-- The law of the transaction unit in the course of an event: the records of `L` are in use, but stand in
no queue and are no engine's work any more. That every other ACTIVE record is its engine's work is asked
where `W` holds. In the teardown of the session of `T` nothing waits for a place at its link, though DONE
records may be left that have it as their destination. -/
structure TxLaw (W : Prop) (T : Option Link) (L : List PoolIx) (s : State) : Prop where
  queue_nodup : ∀ b, (s.busQueue b).Nodup
  mem_queue : ∀ b p, p ∈ s.busQueue b ↔ p ∉ L ∧ s.recordOn p .queued b
  work : ∀ b p, (s.engine b).work = .record p → p ∉ L ∧ s.recordOn p .active b
  worked : W → ∀ b p, p ∉ L → s.recordOn p .active b → (s.engine b).work = .record p
  done_nodup : ∀ l, (s.waitingDone l).Nodup
  mem_done : ∀ l p, p ∈ s.waitingDone l ↔
    T ≠ some l ∧ ∃ r, s.record p = some r ∧ r.state = .done ∧ r.destination = some l
  destined : ∀ p r, s.record p = some r → r.state = .done → r.destination ≠ none
  loose : ∀ p ∈ L, ∃ r, s.record p = some r ∧ r.state ≠ .done
  flight : s.FlightLawIn T
  store : s.StoreLaw

theorem txLaw_of_transactionLaw (h : s.TransactionLaw) (W : Prop) : TxLaw W none [] s := by
  obtain ⟨⟨hq, hw, hd, hdest⟩, hflight, hstore⟩ := h
  exact {
    queue_nodup := fun b => (hq b).1
    mem_queue := fun b p => by simpa using (hq b).2 p
    work := fun b p h => ⟨List.not_mem_nil, (hw b p).mp h⟩
    worked := fun _ b p _ h => (hw b p).mpr h
    done_nodup := fun l => (hd l).1
    mem_done := fun l p => by simpa using (hd l).2 p
    destined := hdest
    loose := nofun
    flight := flightLawIn_none.mpr hflight
    store := hstore }

theorem TxLaw.transactionLaw (h : TxLaw True none [] s) : s.TransactionLaw :=
  ⟨⟨fun b => ⟨h.queue_nodup b, fun p => by simpa using h.mem_queue b p⟩,
    fun b p => ⟨fun hw => (h.work b p hw).2, fun hr => h.worked trivial b p List.not_mem_nil hr⟩,
    fun l => ⟨h.done_nodup l, fun p => by simpa using h.mem_done l p⟩, h.destined⟩,
    flightLawIn_none.mp h.flight, h.store⟩

/-! ### What leaves the law as it is -/

/-- What the law sees of a record stays; a stop may be requested. -/
structure Same (r r' : Record) : Prop where
  state : r'.state = r.state
  bus : r'.bus = r.bus
  destination : r'.destination = r.destination
  handle : r'.handle = r.handle
  kind : r'.kind = r.kind
  stop : r.stopRequested = true → r'.stopRequested = true

theorem Same.refl (r : Record) : Same r r := ⟨rfl, rfl, rfl, rfl, rfl, id⟩

theorem Same.trans {a b c : Record} (h : Same a b) (k : Same b c) : Same a c :=
  ⟨k.state.trans h.state, k.bus.trans h.bus, k.destination.trans h.destination,
    k.handle.trans h.handle, k.kind.trans h.kind, k.stop ∘ h.stop⟩

/-- A place of the pool stays free, or in use as the law sees it. -/
inductive RecordKept : Option Record → Option Record → Prop
  | free : RecordKept none none
  | same {r r' : Record} (h : Same r r') : RecordKept (some r) (some r')

theorem RecordKept.refl : ∀ x : Option Record, RecordKept x x
  | none => .free
  | some r => .same (.refl r)

theorem RecordKept.trans {a b c : Option Record} (h : RecordKept a b) (k : RecordKept b c) :
    RecordKept a c := by
  cases h with
  | free => exact k
  | same h => cases k with | same k => exact .same (h.trans k)

theorem RecordKept.before {x : Option Record} (h : RecordKept x (some r)) :
    ∃ r', x = some r' ∧ Same r' r := by
  cases h with | same h => exact ⟨_, rfl, h⟩

theorem RecordKept.after {x : Option Record} (h : RecordKept (some r) x) :
    ∃ r', x = some r' ∧ Same r r' := by
  cases h with | same h => exact ⟨_, rfl, h⟩

/-- What the law sees of a slot stays: its record in flight, with its generation and owner where it has
one. A slot that is ENDING was so before. -/
structure FlightKept (a b : Slot) : Prop where
  inFlight : b.body.inFlight? = a.body.inFlight?
  handle : a.body.inFlight? ≠ none → b.generation = a.generation ∧ b.body.owner? = a.body.owner?
  ending : ∀ e, b.body = .ending e → a.body = .ending e

theorem FlightKept.refl (a : Slot) : FlightKept a a := ⟨rfl, fun _ => ⟨rfl, rfl⟩, fun _ h => h⟩

theorem FlightKept.trans {a b c : Slot} (h : FlightKept a b) (k : FlightKept b c) :
    FlightKept a c where
  inFlight := k.inFlight.trans h.inFlight
  handle := fun ha => by
    obtain ⟨h1, h2⟩ := h.handle ha
    obtain ⟨k1, k2⟩ := k.handle (h.inFlight ▸ ha)
    exact ⟨k1.trans h1, k2.trans h2⟩
  ending := fun e he => h.ending e (k.ending e he)

theorem Keeps.flightKept {a b : Slot} (h : Keeps a b) : FlightKept a b :=
  ⟨h.inFlight, fun _ => ⟨h.generation, h.owner⟩, fun e he => by
    rw [← h.unsettled (.inl (by rw [he]; rfl))]
    exact he⟩

/-- A slot with nothing in flight, before and after, that does not come to be ENDING. -/
theorem FlightKept.of_none {a b : Slot} (ha : a.body.inFlight? = none) (hb : b.body.inFlight? = none)
    (he : ∀ e, b.body ≠ .ending e) : FlightKept a b :=
  ⟨hb.trans ha.symm, fun h => absurd ha h, fun e h => absurd h (he e)⟩

/-- What the law of the transaction unit sees stays as it was. -/
structure Quiet (s t : State) : Prop where
  record : ∀ p, RecordKept (s.record p) (t.record p)
  queue : ∀ b, t.busQueue b = s.busQueue b
  work : ∀ b p, (t.engine b).work = .record p ↔ (s.engine b).work = .record p
  done : ∀ l, t.waitingDone l = s.waitingDone l
  job : t.saveJob = s.saveJob
  slot : ∀ k, FlightKept (s.slot k) (t.slot k)

theorem Quiet.refl (s : State) : Quiet s s :=
  ⟨fun _ => .refl _, fun _ => rfl, fun _ _ => .rfl, fun _ => rfl, rfl, fun _ => .refl _⟩

theorem Quiet.trans (h : Quiet s t) (k : Quiet t u) : Quiet s u :=
  ⟨fun p => (h.record p).trans (k.record p), fun b => (k.queue b).trans (h.queue b),
    fun b p => (k.work b p).trans (h.work b p), fun l => (k.done l).trans (h.done l),
    k.job.trans h.job, fun i => (h.slot i).trans (k.slot i)⟩

/-- A state with the same pool, queues, engines and save job, whose slots keep what is in flight. -/
theorem Quiet.of_slots (hr : ∀ p, t.record p = s.record p) (hq : ∀ b, t.busQueue b = s.busQueue b)
    (hw : ∀ b, t.engine b = s.engine b) (hd : ∀ l, t.waitingDone l = s.waitingDone l)
    (hj : t.saveJob = s.saveJob) (hs : ∀ k, FlightKept (s.slot k) (t.slot k)) : Quiet s t :=
  ⟨fun p => hr p ▸ .refl _, hq, fun b p => by rw [hw b], hd, hj, hs⟩

/-- A state with the same pool, queues, engines, save job and slots. -/
theorem Quiet.of_frame (hr : ∀ p, t.record p = s.record p) (hq : ∀ b, t.busQueue b = s.busQueue b)
    (hw : ∀ b, t.engine b = s.engine b) (hd : ∀ l, t.waitingDone l = s.waitingDone l)
    (hj : t.saveJob = s.saveJob) (hs : ∀ k, t.slot k = s.slot k) : Quiet s t :=
  .of_slots hr hq hw hd hj fun k => hs k ▸ .refl _

theorem Quiet.recordOn (h : Quiet s t) {x : TxState} {b : BusIx} :
    t.recordOn p x b ↔ s.recordOn p x b := by
  constructor
  · rintro ⟨r', hr', rfl, rfl⟩
    obtain ⟨r, hr, hs⟩ := RecordKept.before (hr' ▸ h.record p)
    exact ⟨r, hr, hs.state.symm, hs.bus.symm⟩
  · rintro ⟨r, hr, rfl, rfl⟩
    obtain ⟨r', hr', hs⟩ := RecordKept.after (hr ▸ h.record p)
    exact ⟨r', hr', hs.state, hs.bus⟩

theorem Quiet.flightLaw (h : Quiet s t) (hl : s.FlightLawIn T) : t.FlightLawIn T := by
  obtain ⟨h1, h2, h3⟩ := hl
  refine ⟨fun i p hp => ?_, fun p r' g hr' hd hg => ?_, fun i e he => ?_⟩
  · rw [(h.slot i).inFlight] at hp
    obtain ⟨r, hr, hd, hh, hdest⟩ := h1 i p hp
    obtain ⟨r', hr', hs⟩ := RecordKept.after (hr ▸ h.record p)
    obtain ⟨hgen, howner⟩ := (h.slot i).handle (by rw [hp]; nofun)
    exact ⟨r', hr', by rw [hs.state]; exact hd, by rw [hs.handle, hgen]; exact hh,
      by rw [hs.destination, hs.state, howner]; exact hdest⟩
  · obtain ⟨r, hr, hs⟩ := RecordKept.before (hr' ▸ h.record p)
    obtain ⟨hin, hgen⟩ := h2 p r g hr (hs.state ▸ hd) (hs.handle ▸ hg)
    have := (h.slot g.slot).handle (by rw [hin]; nofun)
    exact ⟨(h.slot g.slot).inFlight.trans hin, this.1.trans hgen⟩
  · obtain ⟨p, r, hp, hr, hstate, hstop⟩ := h3 i e ((h.slot i).ending e he)
    obtain ⟨r', hr', hs⟩ := RecordKept.after (hr ▸ h.record p)
    exact ⟨p, r', hp, hr', hs.state.trans hstate, hs.stop hstop⟩

theorem Quiet.storeLaw (h : Quiet s t) (hl : s.StoreLaw) : t.StoreLaw := by
  obtain ⟨h1, h2⟩ := hl
  refine ⟨fun p r' hr' => ?_, fun p => ?_⟩
  · obtain ⟨r, hr, hs⟩ := RecordKept.before (hr' ▸ h.record p)
    rw [hs.kind, hs.handle]
    exact h1 p r hr
  · rw [h.job, h2 p]
    constructor
    · rintro ⟨r, hr, hk⟩
      obtain ⟨r', hr', hs⟩ := RecordKept.after (hr ▸ h.record p)
      exact ⟨r', hr', hs.kind.trans hk⟩
    · rintro ⟨r', hr', hk⟩
      obtain ⟨r, hr, hs⟩ := RecordKept.before (hr' ▸ h.record p)
      exact ⟨r, hr, hs.kind.symm.trans hk⟩

theorem Quiet.txLaw (h : Quiet s t) (hl : TxLaw W T L s) : TxLaw W T L t where
  queue_nodup := fun b => h.queue b ▸ hl.queue_nodup b
  mem_queue := fun b p => by rw [h.queue b, h.recordOn]; exact hl.mem_queue b p
  work := fun b p hw => by rw [h.recordOn]; exact hl.work b p ((h.work b p).mp hw)
  worked := fun w b p hp hr => (h.work b p).mpr (hl.worked w b p hp (h.recordOn.mp hr))
  done_nodup := fun l => h.done l ▸ hl.done_nodup l
  mem_done := fun l p => by
    rw [h.done l, hl.mem_done l p]
    refine and_congr_right fun _ => ?_
    constructor
    · rintro ⟨r, hr, hd, hdest⟩
      obtain ⟨r', hr', hs⟩ := RecordKept.after (hr ▸ h.record p)
      exact ⟨r', hr', hs.state.trans hd, hs.destination.trans hdest⟩
    · rintro ⟨r', hr', hd, hdest⟩
      obtain ⟨r, hr, hs⟩ := RecordKept.before (hr' ▸ h.record p)
      exact ⟨r, hr, hs.state.symm.trans hd, hs.destination.symm.trans hdest⟩
  destined := fun p r' hr' hd => by
    obtain ⟨r, hr, hs⟩ := RecordKept.before (hr' ▸ h.record p)
    rw [hs.destination]
    exact hl.destined p r hr (hs.state ▸ hd)
  loose := fun p hp => by
    obtain ⟨r, hr, hd⟩ := hl.loose p hp
    obtain ⟨r', hr', hs⟩ := RecordKept.after (hr ▸ h.record p)
    exact ⟨r', hr', hs.state ▸ hd⟩
  flight := h.flightLaw hl.flight
  store := h.storeLaw hl.store

/-- The records of `L` may be listed in any way. -/
theorem TxLaw.congr {M : List PoolIx} (h : TxLaw W T L s) (hm : ∀ p, p ∈ M ↔ p ∈ L) :
    TxLaw W T M s where
  queue_nodup := h.queue_nodup
  mem_queue := fun b p => by rw [hm p]; exact h.mem_queue b p
  work := fun b p hw => by rw [hm p]; exact h.work b p hw
  worked := fun w b p hp => h.worked w b p (mt (hm p).mpr hp)
  done_nodup := h.done_nodup
  mem_done := h.mem_done
  destined := h.destined
  loose := fun p hp => h.loose p ((hm p).mp hp)
  flight := h.flight
  store := h.store

/-! ### Quiet operations -/

theorem quiet_setLink (s : State) (l : Link) (x : LinkUnit) : Quiet s (s.setLink l x) :=
  .of_frame (by simp) (by simp) (by simp) (by simp) (by simp) (by simp)

theorem quiet_setEntry (s : State) (e : EntryIx) (x : Entry) : Quiet s (s.setEntry e x) :=
  .of_frame (by simp) (by simp) (by simp) (by simp) (by simp) (by simp)

theorem quiet_leaveQueue (s : State) (e : EntryIx) (i : SlotIx) : Quiet s (s.leaveQueue e i) :=
  quiet_setEntry _ _ _

theorem quiet_offerNotice (s : State) (l : Link) (n : Notice) : Quiet s (s.offerNotice l n) :=
  .of_frame (by simp) (by simp) (by simp) (by simp) (by simp) (by simp)

theorem quiet_answer (s : State) (l : Link) (tag : Byte) (st : Status) (body : List Byte) :
    Quiet s (s.answer l tag st body) := quiet_setLink _ _ _

theorem quiet_answerAmong (s : State) (n : Nat) (l : Link) (tag : Byte) (st : Status)
    (body : List Byte) : Quiet s (s.answerAmong n l tag st body) :=
  .of_frame (by simp) (by simp) (by simp) (by simp) (by simp) (by simp)

theorem quiet_grantPass (s : State) (e : EntryIx) : Quiet s (s.grantPass e) :=
  .of_slots (by simp) (by simp) (by simp) (by simp) (by simp)
    fun k => (keepsAll_grantPass s e k).flightKept

theorem quiet_grantPassIf (s : State) (c : Bool) (e : EntryIx) : Quiet s (s.grantPassIf c e) := by
  cases c with
  | false => exact .refl s
  | true => exact quiet_grantPass s e

/-- One slot is written, with what it has in flight kept. -/
theorem quiet_setSlot (s : State) {i : SlotIx} {x : Slot} (h : FlightKept (s.slot i) x) :
    Quiet s (s.setSlot i x) :=
  .of_slots (by simp) (by simp) (by simp) (by simp) (by simp) fun k => by
    rw [State.slot_setSlot]
    split
    · rename_i hk; exact hk ▸ h
    · exact .refl _

/-- A HELD slot is written with its owner and its record in flight kept. -/
theorem quiet_setHeld (s : State) {i : SlotIx} {h h' : HeldSlot} (hb : (s.slot i).body = .held h)
    (ho : h'.owner = h.owner) (hf : h'.inFlight = h.inFlight) : Quiet s (s.setBody i (.held h')) :=
  quiet_setSlot s ⟨by rw [hb]; exact hf, fun _ => ⟨rfl, by rw [hb]; exact congrArg some ho⟩, nofun⟩

theorem quiet_vacate (s : State) {i : SlotIx} (e : EntryIx)
    (hf : (s.slot i).body.inFlight? = none) : Quiet s (s.vacate i e) :=
  (quiet_setSlot s (.of_none hf rfl fun _ he => by cases he)).trans (quiet_leaveQueue _ _ _)

theorem quiet_warnIfDue (s : State) (i : SlotIx) : Quiet s (s.warnIfDue i) :=
  .of_slots (by simp) (by simp) (by simp) (by simp) (by simp)
    fun k => (keepsAll_warnIfDue s i k).flightKept

/-- A record is written over one that the law sees as the same. -/
theorem quiet_setRecord {r' : Record} (hr : s.record p = some r) (h : Same r r') :
    Quiet s (s.setRecord p (some r')) :=
  ⟨fun k => by
      rw [State.record_setRecord]
      split
      · rename_i hk; rw [← hk, hr]; exact .same h
      · exact .refl _,
    by simp, by simp, by simp, by simp, fun k => by simpa using FlightKept.refl (s.slot k)⟩

/-- An engine is written with its work kept, or work that is no record in the place of such. -/
theorem quiet_setEngine (s : State) {b : BusIx} {e : Engine}
    (h : ∀ p, e.work = .record p ↔ (s.engine b).work = .record p) : Quiet s (s.setEngine b e) :=
  ⟨fun p => by simpa using RecordKept.refl (s.record p), by simp, fun c p => by
      rw [State.engine_setEngine]
      split
      · rename_i hc; rw [← hc]; exact h p
      · rfl,
    by simp, by simp, fun k => by simpa using FlightKept.refl (s.slot k)⟩

/-! ### The completion of a record (R76) -/

/-- A record is DONE and its slot has been told; it is still to be routed. -/
structure Landed (W : Prop) (L : List PoolIx) (p : PoolIx) (r : Record) (v : State) : Prop where
  freed : TxLaw W none L (v.freeRecord p)
  record : v.record p = some r
  done : r.state = .done
  store : r.kind = .store ↔ r.handle = none
  job : v.saveJob = some p ↔ r.kind = .store
  not_loose : p ∉ L

theorem record_freeRecord (s : State) (p k : PoolIx) :
    (s.freeRecord p).record k = if p = k then none else s.record k := by
  simp only [State.freeRecord, State.setSaveJob_frame, State.record_setRecord]

theorem saveJob_freeRecord (s : State) (p : PoolIx) :
    (s.freeRecord p).saveJob = if s.saveJob = some p then none else s.saveJob := rfl

theorem freeRecord_some {q : PoolIx} (h : (s.freeRecord p).record q = some r) :
    q ≠ p ∧ s.record q = some r := by
  rw [record_freeRecord] at h
  split at h
  · cases h
  · rename_i hpq
    exact ⟨Ne.symm hpq, h⟩

theorem freeRecord_of_ne {q : PoolIx} (h : q ≠ p) : (s.freeRecord p).record q = s.record q := by
  rw [record_freeRecord, if_neg h.symm]

section Landed

variable {v : State}

theorem Landed.of_ne_done (h : Landed W L p r v) {q : PoolIx} {r' : Record}
    (hr : v.record q = some r') (hd : r'.state ≠ .done) : q ≠ p := by
  rintro rfl
  cases h.record.symm.trans hr
  exact hd h.done

theorem Landed.recordOn_iff (h : Landed W L p r v) {q : PoolIx} {x : TxState} {b : BusIx}
    (hx : x ≠ .done) : (v.freeRecord p).recordOn q x b ↔ v.recordOn q x b := by
  constructor
  · rintro ⟨r', hr', hs, hb⟩
    exact ⟨r', (freeRecord_some hr').2, hs, hb⟩
  · rintro ⟨r', hr', hs, hb⟩
    exact ⟨r', (freeRecord_of_ne (h.of_ne_done hr' (hs ▸ hx))).trans hr', hs, hb⟩

theorem Landed.flightLaw (h : Landed W L p r v) : v.FlightLawIn none := by
  obtain ⟨h1, h2, h3⟩ := h.freed.flight
  simp only [State.freeRecord_frame] at h1 h2 h3
  refine ⟨fun i q hq => ?_, fun q r' g hr' hd hg => ?_, fun i e he => ?_⟩
  · obtain ⟨r', hr', hd, hh, hdest⟩ := h1 i q hq
    exact ⟨r', (freeRecord_some hr').2, hd, hh, hdest⟩
  · exact h2 q r' g ((freeRecord_of_ne (h.of_ne_done hr' hd)).trans hr') hd hg
  · obtain ⟨q, r', hq, hr', hs, hstop⟩ := h3 i e he
    exact ⟨q, r', hq, (freeRecord_some hr').2, hs, hstop⟩

theorem Landed.storeLaw (h : Landed W L p r v) : v.StoreLaw := by
  obtain ⟨h1, h2⟩ := h.freed.store
  refine ⟨fun q r' hr' => ?_, fun q => ?_⟩
  · by_cases hq : q = p
    · subst hq
      cases h.record.symm.trans hr'
      exact h.store
    · exact h1 q r' ((freeRecord_of_ne hq).trans hr')
  · by_cases hq : q = p
    · subst hq
      rw [h.job]
      exact ⟨fun hk => ⟨r, h.record, hk⟩, fun ⟨r', hr', hk⟩ => by
        cases h.record.symm.trans hr'; exact hk⟩
    · have := h2 q
      rw [freeRecord_of_ne hq, saveJob_freeRecord] at this
      rw [← this]
      split
      · rename_i hj
        simp [hj, Ne.symm hq]
      · rfl

/-- R77: a DONE record waits for a place at its link. -/
theorem Landed.waits (h : Landed W L p r v) {l : Link} (hl : r.destination = some l) :
    TxLaw W none L (v.setWaitingDone l (v.waitingDone l ++ [p])) := by
  have hq := h.freed
  have hdone : ∀ k q, q ∈ v.waitingDone k ↔ q ≠ p ∧
      ∃ r', v.record q = some r' ∧ r'.state = .done ∧ r'.destination = some k := by
    intro k q
    have := hq.mem_done k q
    simp only [State.freeRecord_frame, ne_eq, reduceCtorEq, not_false_eq_true, true_and] at this
    rw [this]
    constructor
    · rintro ⟨r', hr', h'⟩
      exact ⟨(freeRecord_some hr').1, r', (freeRecord_some hr').2, h'⟩
    · rintro ⟨hne, r', hr', h'⟩
      exact ⟨r', (freeRecord_of_ne hne).trans hr', h'⟩
  have hp : ∀ k, p ∉ v.waitingDone k := fun k hk => ((hdone k p).mp hk).1 rfl
  exact {
    queue_nodup := hq.queue_nodup
    mem_queue := fun b q => by
      have := hq.mem_queue b q
      rwa [h.recordOn_iff (x := .queued) nofun] at this
    work := fun b q hw => by
      have := hq.work b q hw
      rwa [h.recordOn_iff (x := .active) nofun] at this
    worked := fun w b q hl hr => hq.worked w b q hl ((h.recordOn_iff (x := .active) nofun).mpr hr)
    done_nodup := fun k => by
      rw [State.waitingDone_setWaitingDone]
      split
      · exact List.nodup_append.mpr ⟨hq.done_nodup l, List.nodup_singleton p,
          fun a ha b hb => by rw [List.mem_singleton.mp hb]; rintro rfl; exact hp l ha⟩
      · exact hq.done_nodup k
    mem_done := fun k q => by
      rw [State.waitingDone_setWaitingDone]
      simp only [State.setWaitingDone_frame, ne_eq, reduceCtorEq, not_false_eq_true, true_and]
      by_cases hqp : q = p
      · subst hqp
        simp only [h.record, Option.some.injEq, exists_eq_left', h.done, hl, true_and]
        split
        · rename_i hk; simp [hk]
        · rename_i hk; simp [hp k, hk]
      · split
        · rename_i hk
          subst hk
          rw [List.mem_append, hdone l q]
          simp [hqp]
        · rw [hdone k q]
          simp [hqp]
    destined := fun q r' hr' hd => by
      by_cases hqp : q = p
      · subst hqp
        cases h.record.symm.trans hr'
        rw [hl]
        nofun
      · exact hq.destined q r' ((freeRecord_of_ne hqp).trans hr') hd
    loose := fun q hqL => by
      obtain ⟨r', hr', hd⟩ := hq.loose q hqL
      exact ⟨r', (freeRecord_some hr').2, hd⟩
    flight := h.flightLaw
    store := h.storeLaw }

/-- What the law sees of a state, once a record is freed, does not depend on the freeing's place. -/
theorem Quiet.freeRecord (h : Quiet s t) (hr : ∀ k, t.record k = s.record k) (p : PoolIx) :
    Quiet (s.freeRecord p) (t.freeRecord p) :=
  ⟨fun k => by rw [record_freeRecord, record_freeRecord, hr k]; exact .refl _,
    by simpa using h.queue, by simpa using h.work, by simpa using h.done,
    by rw [saveJob_freeRecord, saveJob_freeRecord, h.job], by simpa using h.slot⟩

/-- R77 to R79: wherever a DONE record is routed, the law holds. -/
theorem Landed.route (h : Landed W L p r v) (d : Bool) : TxLaw W none L (v.route p r d) := by
  unfold State.route
  split
  · exact h.freed
  · rename_i l hl
    split
    · exact h.freed
    · split
      · unfold State.offerCompletion
        split
        · exact ((quiet_setLink v l _).freeRecord (by simp) p).txLaw h.freed
        · exact h.waits hl
      · exact ((quiet_offerNotice v l _).freeRecord (by simp) p).txLaw h.freed
      · exact h.freed

end Landed

/-! ### The slot that is told (R76.2, R24) -/

/-- R24: what frees an ENDING slot leaves of the slots is what grants leave. -/
theorem keepsAll_freeEnding (s : State) (i : SlotIx) (e : EntryIx) :
    KeepsAll (s.freeSlot i) (s.freeEnding i e) := by
  simp only [State.freeEnding]
  split
  · split
    · exact keepsAll_grantPass _ _
    · exact .of_eq fun _ => by simp
  · exact keepsAll_grantPass _ _

theorem clearFlight_txFrame (s : State) (h : Handle) :
    (∀ b, (s.clearFlight h).busQueue b = s.busQueue b) ∧
    (∀ l, (s.clearFlight h).waitingDone l = s.waitingDone l) ∧
    (s.clearFlight h).saveJob = s.saveJob := by
  unfold State.clearFlight
  split
  · split
    · exact ⟨fun _ => rfl, fun _ => rfl, rfl⟩
    · simp only [State.freeEnding]
      split
      · split <;> simp [State.freeSlot_eq]
      · simp [State.freeSlot_eq]
    · exact ⟨fun _ => rfl, fun _ => rfl, rfl⟩
  · exact ⟨fun _ => rfl, fun _ => rfl, rfl⟩

/-- The slot that a handle names has nothing in flight once it is told, and is ENDING no more; every other
slot is as a grant leaves it. -/
theorem clearFlight_slots {h : Handle} (hg : (s.slot h.slot).generation = h.generation)
    (hf : (s.slot h.slot).body.inFlight? = some p) :
    (∀ k, k ≠ h.slot → Keeps (s.slot k) ((s.clearFlight h).slot k)) ∧
      ((s.clearFlight h).slot h.slot).body.inFlight? = none ∧
      ∀ e, ((s.clearFlight h).slot h.slot).body ≠ .ending e := by
  unfold State.clearFlight
  rw [if_pos hg]
  cases hb : (s.slot h.slot).body with
  | free => rw [hb] at hf; cases hf
  | waiting w => rw [hb] at hf; cases hf
  | held hs =>
    refine ⟨fun k hk => ?_, ?_, fun e he => ?_⟩
    · simpa [State.setBody_eq, hk] using Keeps.refl (s.slot k)
    · simp [State.setBody_eq, SlotBody.inFlight?]
    · simp [State.setBody_eq] at he
  | ending e =>
    have hkeep := keepsAll_freeEnding s h.slot e.target
    have hself : (s.freeEnding h.slot e.target).slot h.slot = ⟨(s.slot h.slot).generation, .free⟩ := by
      refine ((hkeep h.slot).settled (.inr ?_)).trans ?_ <;> simp [State.freeSlot_eq, SlotBody.stateName]
    refine ⟨fun k hk => ?_, by simp [hself, SlotBody.inFlight?], fun e he => by simp [hself] at he⟩
    simpa [State.freeSlot_eq, hk] using hkeep k

/-- A record taken off its queue or engine is freed, and the slot it is in flight for is told: the law
holds of what is left. -/
theorem TxLaw.freed (h : TxLaw W T (p :: L) s) (hp : p ∉ L)
    (hr : ∀ k, t.record k = if p = k then none else s.record k)
    (hq : ∀ b, t.busQueue b = s.busQueue b) (hw : ∀ b, t.engine b = s.engine b)
    (hd : ∀ l, t.waitingDone l = s.waitingDone l)
    (hj : t.saveJob = if s.saveJob = some p then none else s.saveJob)
    (hkept : ∀ k, (s.slot k).body.inFlight? ≠ some p → FlightKept (s.slot k) (t.slot k))
    (htold : ∀ k, (s.slot k).body.inFlight? = some p →
      (t.slot k).body.inFlight? = none ∧ ∀ e, (t.slot k).body ≠ .ending e) : TxLaw W T L t := by
  obtain ⟨r, hrp, hstate⟩ := h.loose p List.mem_cons_self
  have hsome : ∀ {q r'}, t.record q = some r' ↔ q ≠ p ∧ s.record q = some r' := by
    intro q r'
    rw [hr q]
    by_cases hqp : p = q
    · simp [hqp]
    · simp [hqp, Ne.symm hqp]
  have hon : ∀ {q x b}, t.recordOn q x b ↔ q ≠ p ∧ s.recordOn q x b := by
    intro q x b
    simp [State.recordOn, hsome, and_assoc]
  have hmem : ∀ q, q ∉ p :: L ↔ q ≠ p ∧ q ∉ L := by simp
  have hflight : ∀ k q, (t.slot k).body.inFlight? = some q →
      q ≠ p ∧ (s.slot k).body.inFlight? = some q ∧ FlightKept (s.slot k) (t.slot k) := by
    intro k q hk
    by_cases hkp : (s.slot k).body.inFlight? = some p
    · rw [(htold k hkp).1] at hk; cases hk
    · have := hkept k hkp
      rw [this.inFlight] at hk
      exact ⟨fun hqp => hkp (hqp ▸ hk), hk, this⟩
  obtain ⟨h1, h2, h3⟩ := h.flight
  obtain ⟨hs1, hs2⟩ := h.store
  exact {
    queue_nodup := fun b => hq b ▸ h.queue_nodup b
    mem_queue := fun b q => by
      rw [hq b, h.mem_queue b q, hmem, hon]
      exact ⟨fun ⟨⟨a, b⟩, c⟩ => ⟨b, a, c⟩, fun ⟨b, a, c⟩ => ⟨⟨a, b⟩, c⟩⟩
    work := fun b q hwq => by
      rw [hw b] at hwq
      obtain ⟨hm, ha⟩ := h.work b q hwq
      exact ⟨((hmem q).mp hm).2, hon.mpr ⟨((hmem q).mp hm).1, ha⟩⟩
    worked := fun w b q hqL ha => by
      obtain ⟨hqp, ha⟩ := hon.mp ha
      rw [hw b]
      exact h.worked w b q ((hmem q).mpr ⟨hqp, hqL⟩) ha
    done_nodup := fun l => hd l ▸ h.done_nodup l
    mem_done := fun l q => by
      rw [hd l, h.mem_done l q]
      refine and_congr_right fun _ => ?_
      constructor
      · rintro ⟨r', hr', hdone, hdest⟩
        refine ⟨r', hsome.mpr ⟨?_, hr'⟩, hdone, hdest⟩
        rintro rfl
        cases hrp.symm.trans hr'
        exact hstate hdone
      · rintro ⟨r', hr', h'⟩
        exact ⟨r', (hsome.mp hr').2, h'⟩
    destined := fun q r' hr' => h.destined q r' (hsome.mp hr').2
    loose := fun q hqL => by
      obtain ⟨r', hr', hdone⟩ := h.loose q (List.mem_cons_of_mem _ hqL)
      exact ⟨r', hsome.mpr ⟨fun hqp => hp (hqp ▸ hqL), hr'⟩, hdone⟩
    flight := by
      refine ⟨fun k q hk => ?_, fun q r' g hr' hdone hg => ?_, fun k e he => ?_⟩
      · obtain ⟨hqp, hk', hkk⟩ := hflight k q hk
        obtain ⟨r', hr', hdone, hh, hdest⟩ := h1 k q hk'
        obtain ⟨hgen, howner⟩ := hkk.handle (by rw [hk']; nofun)
        exact ⟨r', hsome.mpr ⟨hqp, hr'⟩, hdone, by rw [hgen]; exact hh, by rw [howner]; exact hdest⟩
      · obtain ⟨hqp, hr'⟩ := hsome.mp hr'
        obtain ⟨hin, hgen⟩ := h2 q r' g hr' hdone hg
        have hkk := hkept g.slot (by rw [hin]; simpa using hqp)
        exact ⟨hkk.inFlight.trans hin, (hkk.handle (by rw [hin]; nofun)).1.trans hgen⟩
      · have hkp : (s.slot k).body.inFlight? ≠ some p := fun hkp => (htold k hkp).2 e he
        have hbk := (hkept k hkp).ending e he
        obtain ⟨q, r', hq', hr', hst, hstop⟩ := h3 k e hbk
        refine ⟨q, r', hq', hsome.mpr ⟨?_, hr'⟩, hst, hstop⟩
        rintro rfl
        exact hkp (by rw [hbk]; exact hq')
    store := by
      refine ⟨fun q r' hr' => hs1 q r' (hsome.mp hr').2, fun q => ?_⟩
      rw [hj]
      by_cases hqp : q = p
      · subst hqp
        have hno : ¬ ∃ r', t.record q = some r' ∧ r'.kind = .store :=
          fun ⟨r', hr', _⟩ => (hsome.mp hr').1 rfl
        refine iff_of_false ?_ hno
        split
        · nofun
        · assumption
      · simp only [hsome, hqp, ne_eq, not_false_eq_true, true_and, ← hs2 q]
        split
        · rename_i hjp
          simp [hjp, Ne.symm hqp]
        · rfl }

/-- R76: the completion of a loose record. -/
theorem TxLaw.complete (h : TxLaw W none (p :: L) s) (hp : p ∉ L) (st : Status) (n : Nat) :
    TxLaw W none L (s.complete p st n) := by
  obtain ⟨r, hr, hstate⟩ := h.loose p List.mem_cons_self
  obtain ⟨h1, h2, -⟩ := h.flight
  obtain ⟨hs1, hs2⟩ := h.store
  have hjob : s.saveJob = some p ↔ (r.completed st n).kind = .store := by
    rw [hs2 p, hr]
    simp [Record.completed]
  unfold State.complete
  simp only [hr]
  split
  · rename_i g hg
    obtain ⟨hin, hgen⟩ := h2 p r g hr hstate hg
    obtain ⟨-, -, -, hengine, -, hrec, -⟩ := clearFlight_frame (s.setRecord p (some (r.completed st n))) g
    obtain ⟨hqueue, hdone, hsave⟩ := clearFlight_txFrame (s.setRecord p (some (r.completed st n))) g
    obtain ⟨hothers, htold, hend⟩ := clearFlight_slots (s := s.setRecord p (some (r.completed st n)))
      (p := p) (by simpa using hgen) (by simpa using hin)
    simp only [State.setRecord_frame] at hqueue hdone hsave hothers
    have hslot : ∀ k, (s.slot k).body.inFlight? = some p → k = g.slot := by
      intro k hk
      obtain ⟨r', hr', -, hh, -⟩ := h1 k p hk
      cases hr.symm.trans hr'
      rw [hg] at hh
      cases hh
      rfl
    refine Landed.route (r := r.completed st n) ⟨?_, (hrec p).trans (State.record_setRecord_self ..), rfl, hs1 p r hr,
      by rw [hsave]; exact hjob, hp⟩ _
    refine h.freed hp (fun k => ?_) (by simpa using hqueue) (fun b => ?_) (by simpa using hdone)
      (by rw [saveJob_freeRecord, hsave]) (fun k hk => ?_) fun k hk => ?_
    · rw [record_freeRecord, hrec, State.record_setRecord]
      split <;> rfl
    · simp [hengine]
    · have hkg : k ≠ g.slot := by rintro rfl; exact hk hin
      exact (hothers k hkg).flightKept
    · cases hslot k hk
      exact ⟨by simpa using htold, by simpa using hend⟩
  · rename_i hg
    refine Landed.route (r := r.completed st n) ⟨?_, State.record_setRecord_self .., rfl, hs1 p r hr, hjob, hp⟩ _
    refine h.freed hp (fun k => ?_) (by simp) (by simp) (by simp) rfl (fun k _ => ?_) fun k hk => ?_
    · rw [record_freeRecord, State.record_setRecord]
      split <;> rfl
    · simpa using FlightKept.refl (s.slot k)
    · obtain ⟨r', hr', -, hh, -⟩ := h1 k p hk
      cases hr.symm.trans hr'
      rw [hg] at hh
      cases hh

end Sys2Proof.Machine

/-! The transaction unit, second half: how records enter and leave its queues and engines, and the end of
a lease and of a session, as operations that keep the law (`TxLaw`). -/

namespace Sys2Proof.Machine

variable {s t : State} {W : Prop} {T : Option Link} {L M : List PoolIx} {p : PoolIx} {r : Record}
  {b : BusIx} {l : Link}

/-! ### Queues and engines -/

/-- The law with other records loose, on a state with other queues and engines. -/
theorem TxLaw.requeued (h : TxLaw W T L s) (hr : ∀ p, t.record p = s.record p)
    (hs : ∀ k, t.slot k = s.slot k) (hd : ∀ l, t.waitingDone l = s.waitingDone l)
    (hj : t.saveJob = s.saveJob) (hn : ∀ b, (t.busQueue b).Nodup)
    (hq : ∀ b p, p ∈ t.busQueue b ↔ p ∉ M ∧ s.recordOn p .queued b)
    (hw : ∀ b p, (t.engine b).work = .record p → p ∉ M ∧ s.recordOn p .active b)
    (hw' : W → ∀ b p, p ∉ M → s.recordOn p .active b → (t.engine b).work = .record p)
    (hl : ∀ p ∈ M, ∃ r, s.record p = some r ∧ r.state ≠ .done) : TxLaw W T M t where
  queue_nodup := hn
  mem_queue := by simpa only [State.recordOn, hr] using hq
  work := by simpa only [State.recordOn, hr] using hw
  worked := by simpa only [State.recordOn, hr] using hw'
  done_nodup := fun l => hd l ▸ h.done_nodup l
  mem_done := by simpa only [hr, hd] using h.mem_done
  destined := by simpa only [hr] using h.destined
  loose := by simpa only [hr] using hl
  flight := by simpa only [State.FlightLawIn, hr, hs] using h.flight
  store := by simpa only [State.StoreLaw, hr, hj] using h.store

theorem recordOn_state {x y : TxState} {c : BusIx} (h : s.recordOn p x b) (k : s.recordOn p y c) :
    x = y ∧ b = c := by
  obtain ⟨r, hr, rfl, rfl⟩ := h
  obtain ⟨r', hr', rfl, rfl⟩ := k
  cases hr.symm.trans hr'
  exact ⟨rfl, rfl⟩

/-- R68: a QUEUED record leaves its bus queue. -/
theorem TxLaw.leaveBusQueue (h : TxLaw W T L s) (hp : s.recordOn p .queued b) :
    TxLaw W T (p :: L) (s.leaveBusQueue b p) := by
  refine h.requeued (by simp) (by simp) (by simp) (by simp) (fun c => ?_) (fun c q => ?_)
    (fun c q hw => ?_) (fun w c q hq ha => ?_) (fun q hq => ?_)
  · simp only [State.leaveBusQueue, State.busQueue_setBusQueue]
    split
    · exact (h.queue_nodup b).filter _
    · exact h.queue_nodup c
  · simp only [State.leaveBusQueue, State.busQueue_setBusQueue, List.mem_cons, not_or]
    split
    · rename_i hc
      subst hc
      simp [h.mem_queue b q, and_assoc, and_comm]
    · rename_i hc
      rw [h.mem_queue c q]
      refine ⟨fun ⟨hL, hq⟩ => ⟨⟨?_, hL⟩, hq⟩, fun ⟨⟨_, hL⟩, hq⟩ => ⟨hL, hq⟩⟩
      rintro rfl
      exact hc (recordOn_state hp hq).2
  · obtain ⟨hL, ha⟩ := h.work c q (by simpa using hw)
    refine ⟨List.not_mem_cons_of_ne_of_not_mem ?_ hL, ha⟩
    rintro rfl
    cases (recordOn_state hp ha).1
  · simpa using h.worked w c q (fun hL => hq (List.mem_cons_of_mem _ hL)) ha
  · rcases List.mem_cons.mp hq with rfl | hq
    · obtain ⟨r, hr, hs, -⟩ := hp
      exact ⟨r, hr, hs ▸ nofun⟩
    · exact h.loose q hq

/-- R98: an engine becomes IDLE; the record it worked at is loose. -/
theorem TxLaw.engineIdle (h : TxLaw W T L s) (hw : (s.engine b).work = .record p) :
    TxLaw W T (p :: L) (s.engineIdle b) := by
  obtain ⟨hpL, hp⟩ := h.work b p hw
  refine h.requeued (by simp [State.engineIdle]) (by simp [State.engineIdle])
    (by simp [State.engineIdle]) (by simp [State.engineIdle]) (by simpa [State.engineIdle] using h.queue_nodup)
    (fun c q => ?_) (fun c q hc => ?_) (fun w c q hq ha => ?_) (fun q hq => ?_)
  · simp only [State.engineIdle, State.setEngine_frame, h.mem_queue c q, List.mem_cons, not_or]
    refine ⟨fun ⟨hL, hq⟩ => ⟨⟨?_, hL⟩, hq⟩, fun ⟨⟨_, hL⟩, hq⟩ => ⟨hL, hq⟩⟩
    rintro rfl
    cases (recordOn_state hp hq).1
  · simp only [State.engineIdle, State.engine_setEngine] at hc
    split at hc
    · cases hc
    · rename_i hbc
      obtain ⟨hL, ha⟩ := h.work c q hc
      refine ⟨List.not_mem_cons_of_ne_of_not_mem ?_ hL, ha⟩
      rintro rfl
      exact hbc (recordOn_state hp ha).2
  · obtain ⟨hqp, hL⟩ := List.ne_and_not_mem_of_not_mem_cons hq
    have hc := h.worked w c q hL ha
    rw [State.engineIdle, State.engine_setEngine, if_neg]
    · exact hc
    · rintro rfl
      rw [hw] at hc
      cases hc
      exact hqp rfl
  · rcases List.mem_cons.mp hq with rfl | hq
    · obtain ⟨r, hr, hs, -⟩ := hp
      exact ⟨r, hr, hs ▸ nofun⟩
    · exact h.loose q hq

/-- An engine without a record takes work that is none either. -/
theorem TxLaw.setEngine (h : TxLaw W T L s) {e : Engine}
    (hb : W → ∀ q, (s.engine b).work ≠ .record q) (he : ∀ q, e.work ≠ .record q) :
    TxLaw W T L (s.setEngine b e) := by
  refine h.requeued (by simp) (by simp) (by simp) (by simp) (by simpa using h.queue_nodup)
    (by simpa using h.mem_queue) (fun c q hc => ?_) (fun w c q hq ha => ?_) h.loose
  · rw [State.engine_setEngine] at hc
    split at hc
    · exact absurd hc (he q)
    · exact h.work c q hc
  · have hc := h.worked w c q hq ha
    rw [State.engine_setEngine, if_neg]
    · exact hc
    · rintro rfl
      exact hb w q hc

/-- The record that an engine works at, if it does. -/
def Work.records : Work → List PoolIx
  | .record p => [p]
  | _ => []

theorem Work.mem_records {w : Work} : p ∈ w.records ↔ w = .record p := by
  cases w <;> simp [Work.records, eq_comm]

/-- R99, R82: at an entry into FAULT the engine's record and those of its queue are loose. -/
theorem TxLaw.setFault (h : TxLaw W T [] s) (b : BusIx) (reason : FaultReason) :
    TxLaw W T ((s.engine b).work.records ++ s.busQueue b) (s.setFault b reason) ∧
      ((s.engine b).work.records ++ s.busQueue b).Nodup := by
  have hmem : ∀ q, q ∈ (s.engine b).work.records ++ s.busQueue b ↔
      (s.engine b).work = .record q ∨ s.recordOn q .queued b := by
    intro q
    simp [Work.mem_records, h.mem_queue b q]
  have hone : ∀ q, (s.engine b).work = .record q → s.recordOn q .active b :=
    fun q hq => (h.work b q hq).2
  refine ⟨h.requeued (by simp [State.setFault]) (by simp [State.setFault]) (by simp [State.setFault])
    (by simp [State.setFault]) (fun c => ?_) (fun c q => ?_) (fun c q hc => ?_)
    (fun w c q hq ha => ?_) (fun q hq => ?_), ?_⟩
  · simp only [State.setFault, State.busQueue_setBusQueue]
    split
    · exact List.nodup_nil
    · simpa using h.queue_nodup c
  · rw [hmem]
    simp only [State.setFault, State.busQueue_setBusQueue]
    split
    · rename_i hc
      subst hc
      simp
    · rename_i hc
      simp only [State.setEngine_frame, h.mem_queue c q, List.not_mem_nil, not_false_eq_true,
        true_and]
      refine ⟨fun hq => ⟨?_, hq⟩, And.right⟩
      rintro (hw | hb)
      · cases (recordOn_state hq (hone q hw)).1
      · exact hc (recordOn_state hb hq).2
  · simp only [State.setFault, State.setBusQueue_frame, State.engine_setEngine] at hc
    split at hc
    · cases hc
    · rename_i hbc
      have ha := (h.work c q hc).2
      refine ⟨fun hq => ?_, ha⟩
      rcases (hmem q).mp hq with hw | hq
      · exact hbc (recordOn_state (hone q hw) ha).2
      · cases (recordOn_state hq ha).1
  · have hc := h.worked w c q List.not_mem_nil ha
    simp only [State.setFault, State.setBusQueue_frame]
    rw [State.engine_setEngine, if_neg]
    · exact hc
    · rintro rfl
      exact hq ((hmem q).mpr (.inl hc))
  · rcases (hmem q).mp hq with hw | ⟨r, hr, hs, -⟩
    · obtain ⟨r, hr, hs, -⟩ := hone q hw
      exact ⟨r, hr, hs ▸ nofun⟩
    · exact ⟨r, hr, hs ▸ nofun⟩
  · refine List.nodup_append.mpr ⟨?_, h.queue_nodup b, ?_⟩
    · cases (s.engine b).work <;> simp [Work.records]
    · rintro a ha c hc rfl
      have hq := ((h.mem_queue b a).mp hc).2
      cases (recordOn_state hq (hone a (Work.mem_records.mp ha))).1

/-- R82: the records that were QUEUED on a faulted bus complete. -/
theorem TxLaw.failQueue (q : List PoolIx) (hn : (q ++ L).Nodup) (h : TxLaw W none (q ++ L) s) :
    TxLaw W none L (s.failQueue q) := by
  induction q generalizing s with
  | nil => exact h
  | cons p q ih =>
    obtain ⟨hp, hn⟩ := List.nodup_cons.mp hn
    exact ih hn (TxLaw.complete h hp .busfault 0)

/-! ### A record that enters the unit, and one that is taken to the bus -/

/-- R70, R143: a new record is QUEUED at the tail of its bus queue. -/
theorem TxLaw.enqueued (h : TxLaw W T L s) (hp : s.record p = none) (hs : r.state = .queued)
    (hr : ∀ k, t.record k = if p = k then some r else s.record k)
    (hq : ∀ b, t.busQueue b = if r.bus = b then s.busQueue r.bus ++ [p] else s.busQueue b)
    (hw : ∀ b, t.engine b = s.engine b) (hd : ∀ l, t.waitingDone l = s.waitingDone l)
    (hkind : r.kind = .store ↔ r.handle = none)
    (hj : t.saveJob = if r.kind = .store then some p else s.saveJob)
    (hfree : r.kind = .store → s.saveJob = none) (hflight : t.FlightLawIn T) : TxLaw W T L t := by
  have hrp : t.record p = some r := by rw [hr, if_pos rfl]
  have hne : ∀ {q}, q ≠ p → t.record q = s.record q := fun hq => by rw [hr, if_neg (Ne.symm hq)]
  have hkept : ∀ {q r'}, s.record q = some r' → t.record q = some r' := by
    rintro q r' hr'
    rwa [hne]
    rintro rfl
    cases hp.symm.trans hr'
  have hon : ∀ {q x c}, x ≠ .queued → (t.recordOn q x c ↔ s.recordOn q x c) := by
    rintro q x c hx
    refine ⟨fun ⟨r', hr', hx', hb⟩ => ⟨r', ?_, hx', hb⟩, fun ⟨r', hr', h'⟩ => ⟨r', hkept hr', h'⟩⟩
    rwa [← hne]
    rintro rfl
    cases hrp.symm.trans hr'
    exact hx (hx'.symm.trans hs)
  have hqueued : ∀ {q c}, t.recordOn q .queued c ↔ q = p ∧ r.bus = c ∨ s.recordOn q .queued c := by
    rintro q c
    constructor
    · rintro ⟨r', hr', hx, hb⟩
      by_cases hqp : q = p
      · subst hqp
        cases hrp.symm.trans hr'
        exact .inl ⟨rfl, hb⟩
      · exact .inr ⟨r', (hne hqp).symm.trans hr', hx, hb⟩
    · rintro (⟨rfl, hb⟩ | ⟨r', hr', h'⟩)
      · exact ⟨r, hrp, hs, hb⟩
      · exact ⟨r', hkept hr', h'⟩
  have hpL : p ∉ L := fun hL => by
    obtain ⟨r', hr', -⟩ := h.loose p hL
    cases hp.symm.trans hr'
  have hpq : ∀ c, p ∉ s.busQueue c := fun c hc => by
    obtain ⟨r', hr', -⟩ := ((h.mem_queue c p).mp hc).2
    cases hp.symm.trans hr'
  obtain ⟨hs1, hs2⟩ := h.store
  exact {
    queue_nodup := fun c => by
      rw [hq c]
      split
      · exact List.nodup_append.mpr ⟨h.queue_nodup _, List.nodup_singleton p,
          fun a ha c hc => by rw [List.mem_singleton.mp hc]; rintro rfl; exact hpq _ ha⟩
      · exact h.queue_nodup c
    mem_queue := fun c q => by
      rw [hq c, hqueued]
      split
      · rename_i hc
        subst hc
        rw [List.mem_append, List.mem_singleton, h.mem_queue]
        constructor
        · rintro (⟨hL, hq⟩ | rfl)
          · exact ⟨hL, .inr hq⟩
          · exact ⟨hpL, .inl ⟨rfl, rfl⟩⟩
        · rintro ⟨hL, ⟨rfl, -⟩ | hq⟩
          · exact .inr rfl
          · exact .inl ⟨hL, hq⟩
      · rename_i hc
        simp [h.mem_queue, hc]
    work := fun c q hcq => by
      rw [hon (by nofun)]
      exact h.work c q (hw c ▸ hcq)
    worked := fun w c q hqL ha => by
      rw [hw c]
      exact h.worked w c q hqL ((hon (by nofun)).mp ha)
    done_nodup := fun k => hd k ▸ h.done_nodup k
    mem_done := fun k q => by
      rw [hd k, h.mem_done k q]
      refine and_congr_right fun _ => ⟨fun ⟨r', hr', h'⟩ => ⟨r', hkept hr', h'⟩, ?_⟩
      rintro ⟨r', hr', hdone, hdest⟩
      refine ⟨r', ?_, hdone, hdest⟩
      rwa [← hne]
      rintro rfl
      cases hrp.symm.trans hr'
      cases hs.symm.trans hdone
    destined := fun q r' hr' hdone => by
      refine h.destined q r' ?_ hdone
      rwa [← hne]
      rintro rfl
      cases hrp.symm.trans hr'
      cases hs.symm.trans hdone
    loose := fun q hqL => by
      obtain ⟨r', hr', h'⟩ := h.loose q hqL
      exact ⟨r', hkept hr', h'⟩
    flight := hflight
    store := by
      refine ⟨fun q r' hr' => ?_, fun q => ?_⟩
      · by_cases hqp : q = p
        · subst hqp
          cases hrp.symm.trans hr'
          exact hkind
        · exact hs1 q r' ((hne hqp).symm.trans hr')
      · rw [hj]
        by_cases hqp : q = p
        · subst hqp
          simp only [hrp, Option.some.injEq, exists_eq_left']
          split
          · rename_i hk; simp [hk]
          · rename_i hk; simp [hk, hs2, hp]
        · rw [hne hqp, ← hs2]
          split
          · rename_i hk; simp [hfree hk, Ne.symm hqp]
          · rfl }

/-- R70: the record of a READ or WRITE joins its bus queue and its slot's transaction in flight is set. -/
theorem TxLaw.acceptTransaction (h : TxLaw W none L s) {i : SlotIx} {hs : HeldSlot}
    (hb : (s.slot i).body = .held hs) (hin : hs.inFlight = none) (hp : s.record p = none)
    (hq : r.state = .queued) (hg : r.handle = some ⟨i, (s.slot i).generation⟩)
    (hd : r.destination = some hs.owner) (hk : r.kind ≠ .store) :
    TxLaw W none L (s.acceptTransaction i hs p r) := by
  obtain ⟨h1, h2, h3⟩ := h.flight
  refine h.enqueued hp hq (fun k => ?_) (fun c => ?_) (by simp [State.acceptTransaction, State.enqueue, State.setBody_eq])
    (by simp [State.acceptTransaction, State.enqueue, State.setBody_eq]) (by simp [hk, hg])
    (by simp [State.acceptTransaction, State.enqueue, State.setBody_eq, hk]) (fun h => absurd h hk) ?_
  · simp only [State.acceptTransaction, State.enqueue, State.setBody_eq, State.setSlot_frame,
      State.setBusQueue_frame, State.record_setRecord]
  · simp only [State.acceptTransaction, State.enqueue, State.setBody_eq, State.setSlot_frame,
      State.busQueue_setBusQueue, State.setRecord_frame]
  · simp only [State.FlightLawIn, State.acceptTransaction, State.enqueue, State.setBody_eq,
      State.setSlot_frame, State.setBusQueue_frame, State.record_setRecord, State.slot_setSlot,
      State.setRecord_frame]
    refine ⟨fun k q hkq => ?_, fun q r' g hr' hdone hg' => ?_, fun k e he => ?_⟩
    · by_cases hki : i = k
      · subst hki
        simp only [if_pos, SlotBody.inFlight?] at hkq
        cases hkq
        exact ⟨r, if_pos rfl, hq ▸ nofun, by simpa using hg, .inl (by simpa [SlotBody.owner?] using hd)⟩
      · simp only [if_neg hki] at hkq ⊢
        obtain ⟨r', hr', h'⟩ := h1 k q hkq
        refine ⟨r', ?_, h'⟩
        rw [if_neg]
        · exact hr'
        · rintro rfl
          cases hp.symm.trans hr'
    · split at hr'
      · rename_i hpq
        cases hr'
        rw [hg] at hg'
        cases hg'
        simp [SlotBody.inFlight?, hpq]
      · obtain ⟨hin', hgen⟩ := h2 q r' g hr' hdone hg'
        have : i ≠ g.slot := by
          rintro rfl
          rw [hb] at hin'
          cases hin.symm.trans hin'
        simp only [if_neg this]
        exact ⟨hin', hgen⟩
    · by_cases hki : i = k
      · simp [hki] at he
      · rw [if_neg hki] at he
        obtain ⟨q, r', hq', hr', h'⟩ := h3 k e he
        refine ⟨q, r', hq', ?_, h'⟩
        rw [if_neg]
        · exact hr'
        · rintro rfl
          cases hp.symm.trans hr'

/-- R143: the STORE of a save joins its bus queue and becomes the save job. -/
theorem TxLaw.enqueueStore (h : TxLaw W none L s) (hp : s.record p = none) (hq : r.state = .queued)
    (hg : r.handle = none) (hk : r.kind = .store) (hj : s.saveJob = none) :
    TxLaw W none L ((s.enqueue p r).setSaveJob (some p)) := by
  obtain ⟨h1, h2, h3⟩ := h.flight
  have hne : ∀ {q r'}, s.record q = some r' → p ≠ q := by
    rintro q r' hr' rfl
    cases hp.symm.trans hr'
  refine h.enqueued hp hq (fun k => ?_) (fun c => ?_) (by simp [State.enqueue])
    (by simp [State.enqueue]) (by simp [hk, hg]) (if_pos hk).symm (fun _ => hj) ?_
  · simp only [State.enqueue, State.setSaveJob_frame, State.setBusQueue_frame, State.record_setRecord]
  · simp only [State.enqueue, State.setSaveJob_frame, State.busQueue_setBusQueue, State.setRecord_frame]
  · simp only [State.FlightLawIn, State.enqueue, State.setSaveJob_frame,
      State.setBusQueue_frame, State.record_setRecord, State.setRecord_frame]
    refine ⟨fun k q hkq => ?_, fun q r' g hr' hdone hg' => ?_, fun k e he => ?_⟩
    · obtain ⟨r', hr', h'⟩ := h1 k q hkq
      exact ⟨r', (if_neg (hne hr')).trans hr', h'⟩
    · split at hr'
      · cases hr'
        cases hg.symm.trans hg'
      · exact h2 q r' g hr' hdone hg'
    · obtain ⟨q, r', hq', hr', h'⟩ := h3 k e he
      exact ⟨q, r', hq', (if_neg (hne hr')).trans hr', h'⟩

/-- A record in use is written over by one that is of the same request, and may have become ACTIVE, if it
is loose, or, in the teardown of the session of `T`, have lost its destination. -/
structure Rewritten (T : Option Link) (loose : Prop) (r r' : Record) : Prop where
  bus : r'.bus = r.bus
  handle : r'.handle = r.handle
  kind : r'.kind = r.kind
  stop : r.stopRequested = true → r'.stopRequested = true
  before : r.state ≠ .done
  after : r'.state ≠ .done
  active : r.state = .active → r'.state = .active
  state : loose ∨ r'.state = r.state
  destination : r'.destination = r.destination ∨
    r'.destination = none ∧ (r.handle = none ∨ r'.state = .active ∧ T ≠ none ∧ r.destination = T)

theorem TxLaw.rewritten {r' : Record} (h : TxLaw W T L s) (hr : s.record p = some r)
    (hw : Rewritten T (p ∈ L) r r') : TxLaw W T L (s.setRecord p (some r')) := by
  have hself := State.record_setRecord_self s p (some r')
  have hrec : ∀ {q}, q ≠ p → (s.setRecord p (some r')).record q = s.record q :=
    fun hq => State.record_setRecord_ne s hq _
  have hafter : ∀ {q x}, (s.setRecord p (some r')).record q = some x →
      s.record q = some x ∨ q = p ∧ x = r' := by
    rintro q x hx
    by_cases hq : q = p
    · subst hq
      exact .inr ⟨rfl, Option.some.inj (hx.symm.trans hself)⟩
    · exact .inl ((hrec hq).symm.trans hx)
  have hbefore : ∀ {q x}, s.record q = some x →
      (s.setRecord p (some r')).record q = some x ∨ q = p ∧ x = r := by
    rintro q x hx
    by_cases hq : q = p
    · subst hq
      exact .inr ⟨rfl, Option.some.inj (hx.symm.trans hr)⟩
    · exact .inl ((hrec hq).trans hx)
  have hon : ∀ {q x c}, q ∉ L → ((s.setRecord p (some r')).recordOn q x c ↔ s.recordOn q x c) := by
    rintro q x c hq
    by_cases hqp : q = p
    · subst hqp
      simp only [State.recordOn, hself, hr, Option.some.injEq, exists_eq_left', hw.bus,
        hw.state.resolve_left hq]
    · rw [State.recordOn, hrec hqp]
  obtain ⟨h1, h2, h3⟩ := h.flight
  obtain ⟨hs1, hs2⟩ := h.store
  exact {
    queue_nodup := by simpa using h.queue_nodup
    mem_queue := fun c q => by
      simp only [State.setRecord_frame, h.mem_queue]
      exact and_congr_right fun hq => (hon hq).symm
    work := fun c q hc => by
      obtain ⟨hq, ha⟩ := h.work c q (by simpa using hc)
      exact ⟨hq, (hon hq).mpr ha⟩
    worked := fun w c q hq ha => by simpa using h.worked w c q hq ((hon hq).mp ha)
    done_nodup := by simpa using h.done_nodup
    mem_done := fun k q => by
      simp only [State.setRecord_frame, h.mem_done k q]
      refine and_congr_right fun _ => ⟨?_, ?_⟩
      · rintro ⟨x, hx, hdone, hdest⟩
        obtain hx | ⟨rfl, rfl⟩ := hbefore hx
        · exact ⟨x, hx, hdone, hdest⟩
        · exact absurd hdone hw.before
      · rintro ⟨x, hx, hdone, hdest⟩
        obtain hx | ⟨rfl, rfl⟩ := hafter hx
        · exact ⟨x, hx, hdone, hdest⟩
        · exact absurd hdone hw.after
    destined := fun q x hx hdone => by
      obtain hx | ⟨rfl, rfl⟩ := hafter hx
      · exact h.destined q x hx hdone
      · exact absurd hdone hw.after
    loose := fun q hq => by
      obtain ⟨x, hx, hdone⟩ := h.loose q hq
      obtain hx | ⟨rfl, rfl⟩ := hbefore hx
      · exact ⟨x, hx, hdone⟩
      · exact ⟨r', hself, hw.after⟩
    flight := by
      simp only [State.FlightLawIn, State.setRecord_frame]
      refine ⟨fun k q hk => ?_, fun q x g hx hdone hg => ?_, fun k e he => ?_⟩
      · obtain ⟨x, hx, hdone, hh, hdest⟩ := h1 k q hk
        obtain hx | ⟨rfl, rfl⟩ := hbefore hx
        · exact ⟨x, hx, hdone, hh, hdest⟩
        · refine ⟨r', hself, hw.after, hw.handle.trans hh, ?_⟩
          rcases hw.destination with heq | ⟨hnone, hno | ⟨hact, hT, hdT⟩⟩
          · rw [heq]
            exact hdest.imp_right fun ⟨a, b, c⟩ => ⟨a, hw.active b, c⟩
          · cases hno.symm.trans hh
          · refine .inr ⟨hnone, hact, hT, ?_⟩
            rcases hdest with hdest | ⟨-, -, -, hown⟩
            · exact hdest.symm.trans hdT
            · exact hown
      · obtain hx | ⟨rfl, rfl⟩ := hafter hx
        · exact h2 q x g hx hdone hg
        · exact h2 q r g hr hw.before (hw.handle.symm.trans hg)
      · obtain ⟨q, x, hq, hx, hst, hstop⟩ := h3 k e he
        obtain hx | ⟨rfl, rfl⟩ := hbefore hx
        · exact ⟨q, x, hq, hx, hst, hstop⟩
        · exact ⟨q, r', hq, hself, hw.active hst, hw.stop hstop⟩
    store := by
      refine ⟨fun q x hx => ?_, fun q => ?_⟩
      · obtain hx | ⟨rfl, rfl⟩ := hafter hx
        · exact hs1 q x hx
        · rw [hw.kind, hw.handle]
          exact hs1 q r hr
      · simp only [State.setRecord_frame, hs2 q]
        constructor
        · rintro ⟨x, hx, hk⟩
          obtain hx | ⟨rfl, rfl⟩ := hbefore hx
          · exact ⟨x, hx, hk⟩
          · exact ⟨r', hself, hw.kind.trans hk⟩
        · rintro ⟨x, hx, hk⟩
          obtain hx | ⟨rfl, rfl⟩ := hafter hx
          · exact ⟨x, hx, hk⟩
          · exact ⟨r, hr, hw.kind.symm.trans hk⟩ }

/-- An engine without a record takes up a loose one that is ACTIVE on its bus. -/
theorem TxLaw.takeUp (h : TxLaw W none [p] s) (hp : s.recordOn p .active b)
    (hb : W → ∀ q, (s.engine b).work ≠ .record q) {e : Engine} (he : e.work = .record p) :
    TxLaw W none [] (s.setEngine b e) := by
  refine h.requeued (by simp) (by simp) (by simp) (by simp) (by simpa using h.queue_nodup)
    (fun c q => ?_) (fun c q hc => ?_) (fun w c q hq ha => ?_) nofun
  · simp only [State.setEngine_frame, h.mem_queue c q, List.mem_singleton, List.not_mem_nil,
      not_false_eq_true, true_and]
    refine ⟨And.right, fun hq => ⟨?_, hq⟩⟩
    rintro rfl
    cases (recordOn_state hp hq).1
  · rw [State.engine_setEngine] at hc
    refine ⟨List.not_mem_nil, ?_⟩
    split at hc
    · rename_i hbc
      cases he.symm.trans hc
      exact hbc ▸ hp
    · exact (h.work c q hc).2
  · rw [State.engine_setEngine]
    by_cases hqp : q = p
    · subst hqp
      rw [if_pos (recordOn_state hp ha).2]
      exact he
    · have hc := h.worked w c q (by simpa using hqp) ha
      rw [if_neg]
      · exact hc
      · rintro rfl
        exact hb w q hc

theorem quiet_beginOperation (s : State) (b : BusIx) (lines : LineLevels) :
    Quiet s (s.beginOperation b lines) := by
  obtain ⟨e, he, hwork, -⟩ := beginOperation_eq s b lines
  rw [he]
  exact quiet_setEngine s fun q => by rw [hwork]

theorem quiet_lineCheck (s : State) (b : BusIx) (a : Attempt) (lines : LineLevels) :
    Quiet s (s.lineCheck b a lines) := by
  obtain ⟨e, he, hwork, -⟩ := lineCheck_eq s b a lines
  rw [he]
  exact quiet_setEngine s fun q => by rw [hwork]

/-- R88: an engine without work takes the head of its queue. -/
theorem TxLaw.takeHead (h : TxLaw W none [] s) {rest : List PoolIx} (hq : s.busQueue b = p :: rest)
    (hr : s.record p = some r) (hb : W → ∀ q, (s.engine b).work ≠ .record q) (lines : LineLevels) :
    TxLaw W none [] (s.takeHead b p r rest lines) := by
  obtain ⟨r', hr', hs, hbus⟩ := ((h.mem_queue b p).mp (hq ▸ List.mem_cons_self)).2
  cases hr.symm.trans hr'
  have hleft : s.leaveBusQueue b p = s.setBusQueue b rest := by
    have hn := List.nodup_cons.mp (hq ▸ h.queue_nodup b)
    rw [State.leaveBusQueue, hq, List.filter_cons_of_neg (by simp)]
    congr 1
    exact List.filter_eq_self.mpr fun q hq => decide_eq_true fun hqp => hn.1 (hqp ▸ hq)
  have hloose := hleft ▸ h.leaveBusQueue ⟨r, hr, hs, hbus⟩
  have hact := hloose.rewritten (r := r) (r' := { r with state := .active }) (by simpa using hr)
    ⟨rfl, rfl, rfl, id, by simp [hs], by simp, fun _ => rfl, .inl List.mem_cons_self, .inl rfl⟩
  exact (quiet_beginOperation _ b lines).txLaw (hact.takeUp
    ⟨_, State.record_setRecord_self _ p _, rfl, hbus⟩ (by simpa using hb) rfl)

end Sys2Proof.Machine

/-! The transaction unit, third part: what frees a DONE record, and the end of a lease and of a session, as
operations that keep the law (`TxLaw`). -/

namespace Sys2Proof.Machine

variable {s t : State} {W : Prop} {T : Option Link} {L : List PoolIx} {p : PoolIx} {r : Record}
  {l : Link} {i : SlotIx}

/-! ### A DONE record is freed -/

theorem freeDone_of_not_done (hr : s.record p = some r) (hd : r.state = .done)
    (hrec : ∀ k, t.record k = if p = k then none else s.record k) {q : PoolIx} {r' : Record}
    (hd' : r'.state ≠ .done) : t.record q = some r' ↔ s.record q = some r' := by
  rw [hrec]
  split
  · rename_i hpq
    subst hpq
    refine iff_of_false nofun fun hr' => ?_
    cases hr.symm.trans hr'
    exact hd' hd
  · rfl

/-- No slot has a DONE record in flight: to free one leaves what the slots and records owe each other. -/
theorem State.FlightLawIn.freeDone (h : s.FlightLawIn T) (hr : s.record p = some r)
    (hd : r.state = .done) (hrec : ∀ k, t.record k = if p = k then none else s.record k)
    (hs : ∀ k, t.slot k = s.slot k) : t.FlightLawIn T := by
  obtain ⟨h1, h2, h3⟩ := h
  simp only [State.FlightLawIn, hs]
  refine ⟨fun k q hk => ?_, fun q r' g hr' hdone hg => ?_, fun k e he => ?_⟩
  · obtain ⟨r', hr', hdone, h'⟩ := h1 k q hk
    exact ⟨r', (freeDone_of_not_done hr hd hrec hdone).mpr hr', hdone, h'⟩
  · exact h2 q r' g ((freeDone_of_not_done hr hd hrec hdone).mp hr') hdone hg
  · obtain ⟨q, r', hq, hr', hst, hstop⟩ := h3 k e he
    exact ⟨q, r', hq, (freeDone_of_not_done hr hd hrec (hst ▸ nofun)).mpr hr', hst, hstop⟩

/-- A DONE record leaves the completions that wait, if it stands there, and is freed. -/
theorem TxLaw.freeDone (h : TxLaw W T L s) (hr : s.record p = some r) (hd : r.state = .done)
    (hrec : ∀ k, t.record k = if p = k then none else s.record k)
    (hs : ∀ k, t.slot k = s.slot k) (hq : ∀ b, t.busQueue b = s.busQueue b)
    (hw : ∀ b, t.engine b = s.engine b)
    (hj : t.saveJob = if s.saveJob = some p then none else s.saveJob)
    (hdone : ∀ k, (t.waitingDone k).Nodup ∧
      ∀ q, q ∈ t.waitingDone k ↔ q ≠ p ∧ q ∈ s.waitingDone k) : TxLaw W T L t := by
  have hsome : ∀ {q r'}, t.record q = some r' ↔ q ≠ p ∧ s.record q = some r' := by
    intro q r'
    rw [hrec q]
    by_cases hqp : p = q
    · simp [hqp]
    · simp [hqp, Ne.symm hqp]
  have hon : ∀ {q x b}, x ≠ .done → (t.recordOn q x b ↔ s.recordOn q x b) := by
    rintro q x b hx
    refine exists_congr fun r' => ?_
    constructor
    · rintro ⟨hr', hx', hb⟩
      exact ⟨(freeDone_of_not_done hr hd hrec (hx' ▸ hx)).mp hr', hx', hb⟩
    · rintro ⟨hr', hx', hb⟩
      exact ⟨(freeDone_of_not_done hr hd hrec (hx' ▸ hx)).mpr hr', hx', hb⟩
  obtain ⟨hs1, hs2⟩ := h.store
  exact {
    queue_nodup := fun b => hq b ▸ h.queue_nodup b
    mem_queue := fun b q => by
      rw [hq, hon (by nofun)]
      exact h.mem_queue b q
    work := fun b q hwq => by
      rw [hon (by nofun)]
      exact h.work b q (hw b ▸ hwq)
    worked := fun w b q hL ha => by
      rw [hw]
      exact h.worked w b q hL ((hon (by nofun)).mp ha)
    done_nodup := fun k => (hdone k).1
    mem_done := fun k q => by
      rw [(hdone k).2 q, h.mem_done k q]
      simp only [hsome]
      constructor
      · rintro ⟨hqp, hT, r', hr', h'⟩
        exact ⟨hT, r', ⟨hqp, hr'⟩, h'⟩
      · rintro ⟨hT, r', ⟨hqp, hr'⟩, h'⟩
        exact ⟨hqp, hT, r', hr', h'⟩
    destined := fun q r' hr' => h.destined q r' (hsome.mp hr').2
    loose := fun q hL => by
      obtain ⟨r', hr', hst⟩ := h.loose q hL
      exact ⟨r', (freeDone_of_not_done hr hd hrec hst).mpr hr', hst⟩
    flight := h.flight.freeDone hr hd hrec hs
    store := by
      refine ⟨fun q r' hr' => hs1 q r' (hsome.mp hr').2, fun q => ?_⟩
      rw [hj]
      by_cases hqp : q = p
      · subst hqp
        refine iff_of_false ?_ fun ⟨r', hr', _⟩ => (hsome.mp hr').1 rfl
        split
        · nofun
        · assumption
      · simp only [hsome, hqp, ne_eq, not_false_eq_true, true_and, ← hs2 q]
        split
        · rename_i hjp
          simp [hjp, Ne.symm hqp]
        · rfl }

/-- R155: an available place goes to a claimant. -/
theorem TxLaw.givePlace (h : TxLaw W none L s) (l : Link) : TxLaw W none L (s.givePlace l) := by
  unfold State.givePlace
  split
  · split
    · rename_i p rest hq
      obtain ⟨-, r, hr, hd, -⟩ := (h.mem_done l p).mp (hq ▸ List.mem_cons_self)
      have hn := List.nodup_cons.mp (hq ▸ h.done_nodup l)
      simp only [hr]
      refine h.freeDone hr hd (fun k => ?_) (by simp [State.pushOutbound]) (by simp [State.pushOutbound])
        (by simp [State.pushOutbound]) (by simp [saveJob_freeRecord, State.pushOutbound]) fun k => ?_
      · simp only [record_freeRecord, State.setWaitingDone_frame, State.pushOutbound, State.setLink_frame]
      · simp only [State.freeRecord_frame, State.waitingDone_setWaitingDone, State.pushOutbound,
          State.setLink_frame]
        split
        · rename_i hk
          subst hk
          rw [hq]
          refine ⟨hn.2, fun q => ?_⟩
          rw [List.mem_cons]
          exact ⟨fun hm => ⟨fun hqp => hn.1 (hqp ▸ hm), .inr hm⟩, fun ⟨hqp, hm⟩ => hm.resolve_left hqp⟩
        · rename_i hk
          refine ⟨h.done_nodup k, fun q => ⟨fun hm => ⟨?_, hm⟩, And.right⟩⟩
          rintro rfl
          obtain ⟨-, r', hr', -, hdest⟩ := (h.mem_done k q).mp hm
          obtain ⟨-, r'', hr'', -, hdest'⟩ := (h.mem_done l q).mp (hq ▸ List.mem_cons_self)
          cases hr'.symm.trans hr''
          exact hk (Option.some.inj (hdest'.symm.trans hdest))
    · split
      · exact ((quiet_setLink _ l _).trans (quiet_setLink _ l _)).txLaw h
      · exact h
  · exact h

theorem TxLaw.placeFreed (h : TxLaw W none L s) (l : Link) : TxLaw W none L (s.placeFreed l) := by
  unfold State.placeFreed
  split
  · exact (quiet_setLink _ l _).txLaw h
  · exact h.givePlace l

theorem TxLaw.answerLater (h : TxLaw W none L s) (l : Link) : TxLaw W none L (s.answerLater l) :=
  ((quiet_setLink _ l _).txLaw h).givePlace l

/-! ### The end of a lease (R14, R21, R23, R80) -/

/-- A slot with a record in flight is written with that record; its owner is the record's destination, and
it is ENDING only where the record is ACTIVE and stop-requested. -/
theorem TxLaw.setBody (h : TxLaw W T L s) {x : SlotBody} (hf : (s.slot i).body.inFlight? = some p)
    (hx : x.inFlight? = some p) (hr : s.record p = some r) (hd : r.destination = x.owner?)
    (he : ∀ e, x = .ending e → r.state = .active ∧ r.stopRequested = true) :
    TxLaw W T L (s.setBody i x) := by
  obtain ⟨h1, h2, h3⟩ := h.flight
  have hflight : (s.setBody i x).FlightLawIn T := by
    simp only [State.FlightLawIn, State.setBody_eq, State.setSlot_frame, State.slot_setSlot]
    refine ⟨fun k q hk => ?_, fun q r' g hr' hdone hg => ?_, fun k e hek => ?_⟩
    · by_cases hik : i = k
      · subst hik
        simp only [if_pos] at hk ⊢
        cases hx.symm.trans hk
        obtain ⟨r', hr', hdone, hh, -⟩ := h1 i p hf
        cases hr.symm.trans hr'
        exact ⟨r, hr, hdone, hh, .inl hd⟩
      · simp only [if_neg hik] at hk ⊢
        exact h1 k q hk
    · obtain ⟨hin, hgen⟩ := h2 q r' g hr' hdone hg
      by_cases hik : i = g.slot
      · subst hik
        cases hf.symm.trans hin
        exact ⟨by simpa using hx, by simpa using hgen⟩
      · simp only [if_neg hik]
        exact ⟨hin, hgen⟩
    · by_cases hik : i = k
      · subst hik
        simp only [if_pos] at hek
        subst hek
        exact ⟨p, r, hx, hr, he e rfl⟩
      · rw [if_neg hik] at hek
        exact h3 k e hek
  exact {
    queue_nodup := h.queue_nodup
    mem_queue := h.mem_queue
    work := h.work
    worked := h.worked
    done_nodup := h.done_nodup
    mem_done := h.mem_done
    destined := h.destined
    loose := h.loose
    flight := hflight
    store := h.store }

theorem quiet_requestStop (s : State) (p : PoolIx) : Quiet s (s.requestStop p) := by
  unfold State.requestStop
  split
  · exact .refl s
  · rename_i r hr
    exact quiet_setRecord hr ⟨rfl, rfl, rfl, rfl, rfl, fun _ => rfl⟩

/-- R23: a slot with an ACTIVE record becomes ENDING; its owner is the record's destination. -/
theorem TxLaw.becomeEnding (h : TxLaw W T L s) {hs : HeldSlot} (hb : (s.slot i).body = .held hs)
    (hf : hs.inFlight = some p) (hr : s.record p = some r) (ha : r.state = .active)
    {owner : Option Link} (hd : r.destination = owner) (cause : EndCause) :
    TxLaw W T L (s.becomeEnding i hs p owner cause) := by
  have hstop : s.requestStop p = s.setRecord p (some { r with stopRequested := true }) := by
    simp only [State.requestStop, hr]
  have hcomm : s.becomeEnding i hs p owner cause = ((s.requestStop p).setBody i
      (.ending ⟨owner, hs.target, hs.mode, hs.inFlight, cause⟩)).leaveQueue hs.target i := by
    rw [hstop, State.becomeEnding, State.requestStop]
    have : ((s.setBody i (.ending ⟨owner, hs.target, hs.mode, hs.inFlight, cause⟩)).leaveQueue
        hs.target i).record p = some r := hr
    rw [this]
    rfl
  rw [hcomm]
  refine (quiet_leaveQueue _ _ _).txLaw ?_
  refine TxLaw.setBody (p := p) (r := { r with stopRequested := true })
    ((quiet_requestStop s p).txLaw h) ?_ hf ?_ hd fun _ _ => ⟨ha, rfl⟩
  · simpa [hb, SlotBody.inFlight?] using hf
  · rw [hstop, State.record_setRecord_self]

/-- What is in flight on a HELD slot: nothing, or its record, by the record's state. -/
inductive InFlight (s : State) (x : Option PoolIx) : Flight → Prop
  | none (hx : x = none) : InFlight s x .none
  | queued {p : PoolIx} {r : Record} (hx : x = some p) (hr : s.record p = some r)
      (hs : r.state = .queued) : InFlight s x (.queued p)
  | active {p : PoolIx} {r : Record} (hx : x = some p) (hr : s.record p = some r)
      (hs : r.state = .active) : InFlight s x (.active p)

theorem State.FlightLawIn.inFlight (h : s.FlightLawIn T) {hs : HeldSlot}
    (hb : (s.slot i).body = .held hs) : InFlight s hs.inFlight (s.flight hs.inFlight) := by
  cases hf : hs.inFlight with
  | none => exact .none rfl
  | some p =>
    obtain ⟨r, hr, hdone, -⟩ := h.1 i p (by rw [hb]; exact hf)
    simp only [State.flight, hr]
    cases hst : r.state with
    | queued => exact .queued rfl hr hst
    | active => exact .active rfl hr hst
    | done => exact absurd hst hdone

/-- The slot whose record completes has nothing in flight then. -/
theorem TxLaw.complete_told (h : TxLaw W none L s) (hf : (s.slot i).body.inFlight? = some p)
    (st : Status) (n : Nat) : ((s.complete p st n).slot i).body.inFlight? = none := by
  obtain ⟨r, hr, -, hh, -⟩ := h.flight.1 i p hf
  obtain ⟨-, -, -, hslot, -⟩ := route_frame ((s.setRecord p (some (r.completed st n))).clearFlight
    ⟨i, (s.slot i).generation⟩) p (r.completed st n) (s.detached i)
  simp only [State.complete, hr, hh]
  rw [hslot]
  exact (clearFlight_slots (by simp) (by simpa using hf)).2.1

/-- R80: a QUEUED record is withdrawn. -/
theorem TxLaw.withdraw (h : TxLaw W none [] s) (hr : s.record p = some r) (hs : r.state = .queued)
    (st : Status) : TxLaw W none [] (s.withdraw p st) := by
  simp only [State.withdraw, hr]
  exact (h.leaveBusQueue ⟨r, hr, hs, rfl⟩).complete List.not_mem_nil st 0

/-- R80: the slot of a QUEUED record that is withdrawn has nothing in flight then. -/
theorem TxLaw.withdraw_told (h : TxLaw W none [] s) (hr : s.record p = some r)
    (hs : r.state = .queued) (hf : (s.slot i).body.inFlight? = some p) (st : Status) :
    ((s.withdraw p st).slot i).body.inFlight? = none := by
  simp only [State.withdraw, hr]
  exact (h.leaveBusQueue ⟨r, hr, hs, rfl⟩).complete_told (by simpa using hf) st 0

theorem TxLaw.endLease (h : TxLaw W none [] s) {hs : HeldSlot} (hb : (s.slot i).body = .held hs)
    (e : LeaseEnd) : TxLaw W none [] (s.endLease i hs e) := by
  have hi : (s.slot i).body.inFlight? = hs.inFlight := by rw [hb]; rfl
  unfold State.endLease
  have hin := h.flight.inFlight hb
  generalize s.flight hs.inFlight = f at hin
  cases hin with
  | none hx =>
    exact ((quiet_vacate s _ (hi.trans hx)).trans (quiet_offerNotice _ _ _)).txLaw h
  | @queued p r hx hr hst =>
    exact ((quiet_vacate _ _ (h.withdraw_told hr hst (hi.trans hx) e.status)).trans
      (quiet_offerNotice _ _ _)).txLaw (h.withdraw hr hst e.status)
  | @active p r hx hr hst =>
    obtain ⟨r', hr', -, -, hdest⟩ := h.flight.1 i p (hi.trans hx)
    cases hr.symm.trans hr'
    refine (quiet_offerNotice _ _ _).txLaw (h.becomeEnding hb hx hr hst ?_ e.cause)
    rw [hb] at hdest
    simpa [SlotBody.owner?] using hdest

theorem TxLaw.endLeaseAndPass (h : TxLaw W none [] s) {hs : HeldSlot}
    (hb : (s.slot i).body = .held hs) (e : LeaseEnd) :
    TxLaw W none [] (s.endLeaseAndPass i hs e) :=
  (quiet_grantPassIf _ _ _).txLaw (h.endLease hb e)

/-! ### The end of a session (R81, R116, R117) -/

theorem TxLaw.beginTeardown (h : TxLaw W none [] s) (l : Link) :
    TxLaw W (some l) [] (s.setWaitingDone l []) where
  queue_nodup := h.queue_nodup
  mem_queue := h.mem_queue
  work := h.work
  worked := h.worked
  done_nodup := fun k => by
    rw [State.waitingDone_setWaitingDone]
    split
    · exact List.nodup_nil
    · exact h.done_nodup k
  mem_done := fun k q => by
    rw [State.waitingDone_setWaitingDone]
    simp only [State.setWaitingDone_frame]
    split
    · rename_i hk
      simp [hk]
    · rename_i hk
      simpa [hk] using h.mem_done k q
  destined := h.destined
  loose := nofun
  flight := by
    obtain ⟨h1, h2, h3⟩ := h.flight
    refine ⟨fun k q hk => ?_, h2, h3⟩
    obtain ⟨r, hr, hdone, hh, hdest⟩ := h1 k q hk
    exact ⟨r, hr, hdone, hh, .inl (by simpa using hdest)⟩
  store := h.store

theorem TxLaw.endTeardown (h : TxLaw W (some l) [] s) (hc : s.Clean l)
    (ho : ∀ i, (s.slot i).body.owner? ≠ some l) : TxLaw W none [] s where
  queue_nodup := h.queue_nodup
  mem_queue := h.mem_queue
  work := h.work
  worked := h.worked
  done_nodup := h.done_nodup
  mem_done := fun k q => by
    rw [h.mem_done k q]
    refine and_congr_left fun ⟨r, hr, _, hdest⟩ => iff_of_true ?_ nofun
    rintro ⟨⟩
    exact hc.1 q r hr hdest
  destined := h.destined
  loose := nofun
  flight := by
    obtain ⟨h1, h2, h3⟩ := h.flight
    refine ⟨fun k q hk => ?_, h2, h3⟩
    obtain ⟨r, hr, hdone, hh, hdest⟩ := h1 k q hk
    exact ⟨r, hr, hdone, hh, .inl (hdest.resolve_right fun ⟨_, _, _, hown⟩ => ho k hown)⟩
  store := h.store

/-- R81: a QUEUED READ or WRITE of the ending session is freed and its slot told. -/
theorem TxLaw.discardQueued (h : TxLaw W T [] s) (hr : s.record p = some r) (hs : r.state = .queued)
    (hk : r.kind ≠ .store) : TxLaw W T [] (s.discardQueued p r) := by
  cases hg : r.handle with
  | none => exact absurd ((h.store.1 p r hr).mpr hg) hk
  | some g =>
    obtain ⟨hin, hgen⟩ := h.flight.2.1 p r g hr (hs ▸ nofun) hg
    obtain ⟨hs', hb⟩ : ∃ hs', (s.slot g.slot).body = .held hs' := by
      cases hb : (s.slot g.slot).body with
      | free => rw [hb] at hin; cases hin
      | waiting w => rw [hb] at hin; cases hin
      | held hs' => exact ⟨hs', rfl⟩
      | ending e =>
        obtain ⟨q, r', hq, hr', hact, -⟩ := h.flight.2.2 g.slot e hb
        rw [hb] at hin
        cases hin.symm.trans hq
        cases hr.symm.trans hr'
        cases hs.symm.trans hact
    have hdrop : s.discardQueued p r = ((s.leaveBusQueue r.bus p).freeRecord p).setBody g.slot
        (.held { hs' with inFlight := none }) := by
      simp only [State.discardQueued, hg, State.dropFlight, State.freeRecord_frame,
        State.leaveBusQueue_frame, hgen, hb, if_pos]
    rw [hdrop]
    refine (h.leaveBusQueue ⟨r, hr, hs, rfl⟩).freed List.not_mem_nil (fun k => ?_) (by simp [State.setBody_eq])
      (by simp [State.setBody_eq]) (by simp [State.setBody_eq]) rfl (fun k hkf => ?_) fun k hkf => ?_
    · simp only [State.setBody_eq, State.setSlot_frame, record_freeRecord]
    · have hkg : k ≠ g.slot := by
        rintro rfl
        exact hkf (by simpa using hin)
      simpa [State.setBody_eq, hkg] using FlightKept.refl (s.slot k)
    · obtain ⟨r', hr', -, hh, -⟩ := h.flight.1 k p (by simpa using hkf)
      cases hr.symm.trans hr'
      cases hg.symm.trans hh
      simp [State.setBody_eq, SlotBody.inFlight?]

theorem TxLaw.tearRecord (h : TxLaw W (some l) [] s) (p : PoolIx) :
    TxLaw W (some l) [] (State.tearRecord l s p) := by
  unfold State.tearRecord
  split
  · exact h
  · rename_i r hr
    split
    · rename_i hd
      split
      · rename_i hs
        refine h.freeDone hr hs (record_freeRecord s p) (by simp) (by simp) (by simp) rfl fun k => ?_
        simp only [State.freeRecord_frame]
        refine ⟨h.done_nodup k, fun q => ⟨fun hm => ⟨?_, hm⟩, And.right⟩⟩
        rintro rfl
        obtain ⟨hT, r', hr', -, hdest⟩ := (h.mem_done k q).mp hm
        cases hr.symm.trans hr'
        exact hT (hd.symm.trans hdest)
      · rename_i hs
        exact h.rewritten hr ⟨rfl, rfl, rfl, id, by simp [hs], by simp [hs], id, .inr rfl,
          .inr ⟨rfl, .inr ⟨hs, nofun, hd⟩⟩⟩
      · rename_i hs
        split
        · rename_i hk
          exact h.rewritten hr ⟨rfl, rfl, rfl, id, by simp [hs], by simp [hs], id, .inr rfl,
            .inr ⟨rfl, .inl ((h.store.1 p r hr).mp hk)⟩⟩
        · rename_i hk
          exact h.discardQueued hr hs hk
    · exact h

/-- The law in the course of a teardown, once the session is the destination of no record. -/
theorem TxLaw.tearSlot (h : TxLaw W (some l) [] s)
    (hc : ∀ p r, s.record p = some r → r.destination ≠ some l) (i : SlotIx) :
    TxLaw W (some l) [] (State.tearSlot l s i) := by
  have hdest : (s.slot i).body.owner? = some l → ∀ p, (s.slot i).body.inFlight? = some p →
      ∃ r, s.record p = some r ∧ r.destination = none ∧ r.state = .active := by
    intro ho p hf
    obtain ⟨r, hr, -, -, hd | ⟨hn, ha, -⟩⟩ := h.flight.1 i p hf
    · exact absurd (hd.trans ho) (hc p r hr)
    · exact ⟨r, hr, hn, ha⟩
  unfold State.tearSlot
  split
  · exact h
  · rename_i w hb
    split
    · exact (quiet_vacate s _ (by rw [hb]; rfl)).txLaw h
    · exact h
  · rename_i hs hb
    split
    · rename_i ho
      have hi : (s.slot i).body.inFlight? = hs.inFlight := by rw [hb]; rfl
      have hin := h.flight.inFlight hb
      generalize s.flight hs.inFlight = f at hin
      cases hin with
      | none hx =>
        exact (quiet_vacate s _ (hi.trans hx)).txLaw h
      | @queued p r hx hr hst =>
        obtain ⟨r', hr', -, ha⟩ := hdest (by rw [hb]; exact congrArg some ho) p (hi.trans hx)
        cases hr.symm.trans hr'
        cases hst.symm.trans ha
      | @active p r hx hr hst =>
        obtain ⟨r', hr', hn, -⟩ := hdest (by rw [hb]; exact congrArg some ho) p (hi.trans hx)
        cases hr.symm.trans hr'
        exact h.becomeEnding hb hx hr hst hn .session
    · exact h
  · rename_i e hb
    split
    · rename_i ho
      obtain ⟨p, r, hf, hr, ha, hstop⟩ := h.flight.2.2 i e hb
      obtain ⟨r', hr', hn, -⟩ := hdest (by rw [hb]; exact ho) p (by rw [hb]; exact hf)
      cases hr.symm.trans hr'
      exact h.setBody (by rw [hb]; exact hf) hf hr hn fun _ _ => ⟨ha, hstop⟩
    · exact h

/-- R116, steps 1 and 2. -/
theorem TxLaw.tearHoldings (h : TxLaw W none [] s) (l : Link) :
    TxLaw W none [] (s.tearHoldings l) := by
  obtain ⟨hown, hclean⟩ := tearHoldings_settled s l
  refine TxLaw.endTeardown ?_ hclean hown
  unfold State.tearHoldings
  refine foldl_keep (P := TxLaw W (some l) []) State.grantPass
    (fun s t hs => (quiet_grantPass s t).txLaw hs) _ _ ?_
  have hrec : TxLaw W (some l) [] (poolIndices.foldl (State.tearRecord l) (s.setWaitingDone l [])) :=
    foldl_keep (P := TxLaw W (some l) []) (State.tearRecord l) (fun s p hs => hs.tearRecord p) _ _
      (h.beginTeardown l)
  have hnone : ∀ p r, (poolIndices.foldl (State.tearRecord l) (s.setWaitingDone l [])).record p =
      some r → r.destination ≠ some l := fun p r hr hd =>
    (tearRecords_clean l poolIndices _ p r hr hd).1 (List.mem_finRange p)
  refine (foldl_keep (P := fun u => TxLaw W (some l) [] u ∧
    ∀ p r, u.record p = some r → r.destination ≠ some l) (State.tearSlot l) ?_ _ _ ⟨hrec, hnone⟩).1
  rintro u i ⟨hu, hc⟩
  refine ⟨hu.tearSlot hc i, fun p r hr hd => ?_⟩
  obtain ⟨-, -, hsame, -⟩ := tearSlot_frame l u i
  obtain ⟨r', hr', hd'⟩ := hsame p r hr
  exact hc p r' hr' (hd'.trans hd)

theorem quiet_putSession (s : State) (l : Link) (x : Session) : Quiet s (s.putSession l x) :=
  .of_frame (by simp) (by simp) (by simp) (by simp) (by simp) (by simp)

theorem quiet_clearNotices (s : State) (l : Link) : Quiet s (s.clearNotices l) :=
  .of_frame (by simp) (by simp) (by simp) (by simp) (by simp) (by simp)

theorem TxLaw.teardown (h : TxLaw W none [] s) (l : Link) : TxLaw W none [] (s.teardown l) :=
  ((quiet_clearNotices _ l).trans (quiet_putSession _ l .closed)).txLaw (h.tearHoldings l)

/-! ### Suspension and the link going DOWN (R113, R151) -/

theorem TxLaw.convertDone (h : TxLaw W (some l) [] s) (hf : s.FlightLaw) (hr : s.record p = some r)
    (hs : r.state = .done) (hd : r.destination = some l) :
    TxLaw W (some l) [] (State.convertDone l s p) ∧ (State.convertDone l s p).FlightLaw ∧
      ∀ k, (State.convertDone l s p).record k = if p = k then none else s.record k := by
  simp only [State.convertDone, hr]
  have hrec : ∀ k, ((s.offerNotice l (doneUnseenNotice r)).freeRecord p).record k =
      if p = k then none else s.record k := fun k => by
    rw [record_freeRecord]
    simp only [State.offerNotice_frame]
  refine ⟨h.freeDone hr hs hrec (by simp) (by simp) (by simp) (by simp [saveJob_freeRecord]) fun k => ?_,
    flightLawIn_none.mp ((flightLawIn_none.mpr hf).freeDone hr hs hrec (by simp)), hrec⟩
  simp only [State.freeRecord_frame, State.offerNotice_frame]
  refine ⟨h.done_nodup k, fun q => ⟨fun hm => ⟨?_, hm⟩, And.right⟩⟩
  rintro rfl
  obtain ⟨hT, r', hr', -, hdest⟩ := (h.mem_done k q).mp hm
  cases hr.symm.trans hr'
  exact hT (hd.symm.trans hdest)

theorem TxLaw.convertAll (q : List PoolIx) (hn : q.Nodup) (h : TxLaw W (some l) [] s)
    (hf : s.FlightLaw) (hq : ∀ p, p ∈ q ↔ ∃ r, s.record p = some r ∧ r.state = .done ∧
      r.destination = some l) : TxLaw W none [] (q.foldl (State.convertDone l) s) := by
  induction q generalizing s with
  | nil => exact {
      queue_nodup := h.queue_nodup
      mem_queue := h.mem_queue
      work := h.work
      worked := h.worked
      done_nodup := h.done_nodup
      mem_done := fun k p => by
        refine (h.mem_done k p).trans (and_congr_left fun ⟨r, hr, hs, hd⟩ => iff_of_true ?_ nofun)
        rintro ⟨⟩
        cases (hq p).mpr ⟨r, hr, hs, hd⟩
      destined := h.destined
      loose := nofun
      flight := flightLawIn_none.mpr hf
      store := h.store }
  | cons p q ih =>
    obtain ⟨hpq, hn⟩ := List.nodup_cons.mp hn
    obtain ⟨r, hr, hs, hd⟩ := (hq p).mp List.mem_cons_self
    obtain ⟨h', hf', hrec⟩ := h.convertDone hf hr hs hd
    refine ih hn h' hf' fun k => ?_
    rw [hrec]
    by_cases hpk : p = k
    · subst hpk
      simp [hpq]
    · rw [if_neg hpk, ← hq k, List.mem_cons, or_iff_right (Ne.symm hpk)]

theorem TxLaw.suspend (h : TxLaw W none [] s) (l : Link) (key : Nat) :
    TxLaw W none [] (s.suspend l key) := by
  have h' := (quiet_putSession s l
    (.suspended key (s.now + (s.rightsOf l).grace * Config.unitMs))).txLaw h
  unfold State.suspend
  refine TxLaw.convertAll _ (h'.done_nodup l) (h'.beginTeardown l) (flightLawIn_none.mp h'.flight)
    fun p => ?_
  simpa using h'.mem_done l p

theorem TxLaw.tearsFirst (h : TxLaw W none [] s) (l : Link) : TxLaw W none [] (s.tearsFirst l) := by
  unfold State.tearsFirst
  split
  · exact h.teardown l
  · exact h

theorem TxLaw.sessionLosesLine (h : TxLaw W none [] s) (l : Link) :
    TxLaw W none [] (s.sessionLosesLine l) := by
  unfold State.sessionLosesLine
  split
  · split
    · exact h.suspend l _
    · exact h.teardown l
  · exact h

theorem TxLaw.linkDown (h : TxLaw W none [] s) (l : Link) : TxLaw W none [] (s.linkDown l) :=
  (quiet_setLink _ l _).txLaw ((h.tearsFirst l).sessionLosesLine l)

end Sys2Proof.Machine

/-! The transaction unit, fourth part: every command and every idle step keeps its law (O60), the engines'
law being used only where what is asked of the engines' work is. -/

namespace Sys2Proof.Machine

variable {s t u : State} {W : Prop} {L : List PoolIx} {p : PoolIx} {r : Record} {b : BusIx} {l : Link}

/-! ### More quiet operations -/

section

variable (s)

theorem quiet_advanceTo (d : Nat) : Quiet s (s.advanceTo d) :=
  .of_frame (by simp) (by simp) (by simp) (by simp) (by simp) (by simp)

theorem quiet_setReport (x : Report) : Quiet s (s.setReport x) :=
  .of_frame (by simp) (by simp) (by simp) (by simp) (by simp) (by simp)

theorem quiet_setLoad (x : Option LoadJob) : Quiet s (s.setLoad x) :=
  .of_frame (by simp) (by simp) (by simp) (by simp) (by simp) (by simp)

theorem quiet_setPart (x : PartState) : Quiet s (s.setPart x) :=
  .of_frame (by simp) (by simp) (by simp) (by simp) (by simp) (by simp)

theorem quiet_setRestart (x : Option RestartJob) : Quiet s (s.setRestart x) :=
  .of_frame (by simp) (by simp) (by simp) (by simp) (by simp) (by simp)

theorem quiet_setImage (x : List Byte) : Quiet s (s.setImage x) :=
  .of_frame (by simp) (by simp) (by simp) (by simp) (by simp) (by simp)

theorem quiet_setRights (k : Link) (x : Rights) : Quiet s (s.setRights k x) :=
  .of_frame (by simp) (by simp) (by simp) (by simp) (by simp) (by simp)

theorem quiet_setFreeCount (x : Nat) : Quiet s (s.setFreeCount x) :=
  .of_frame (by simp) (by simp) (by simp) (by simp) (by simp) (by simp)

theorem quiet_setNotice (k : Link) (x : NoticeUnit) : Quiet s (s.setNotice k x) :=
  .of_frame (by simp) (by simp) (by simp) (by simp) (by simp) (by simp)

theorem quiet_refreshAttn (k : Link) : Quiet s (s.refreshAttn k) :=
  .of_frame (by simp) (by simp) (by simp) (by simp) (by simp) (by simp)

theorem quiet_emptyCatalogue : Quiet s s.emptyCatalogue :=
  .of_frame (fun _ => rfl) (fun _ => rfl) (fun _ => rfl) (fun _ => rfl) rfl fun _ => rfl

theorem quiet_leaveFree {i : SlotIx} {x : SlotBody} (hf : (s.slot i).body = .free)
    (hx : x.inFlight? = none) (he : ∀ e, x ≠ .ending e) : Quiet s (s.leaveFree i x) :=
  quiet_setSlot s (.of_none (by rw [hf]; rfl) hx he)

theorem quiet_setEngineState (b : BusIx) (x : EngineState) : Quiet s (s.setEngineState b x) :=
  quiet_setEngine s fun _ => .rfl

theorem quiet_setGiven (b : BusIx) (plan : BusPlan) : Quiet s (s.setGiven b plan) :=
  quiet_setEngine s fun _ => .rfl

theorem quiet_busNotices (b : BusIx) (d : Detail) (ls : List Link) :
    Quiet s (s.busNotices b d ls) :=
  foldl_keep (P := Quiet s) _ (fun _ _ h => h.trans (quiet_offerNotice _ _ _)) s ls (.refl s)

theorem quiet_endLoad (o : LoadOutcome) : Quiet s (s.endLoad o) :=
  ((quiet_setReport _ _).trans (quiet_setLoad _ _)).trans (quiet_setPart _ _)

theorem quiet_loadFailed (why : LoadFailure) : Quiet s (s.loadFailed why) := by
  unfold State.loadFailed
  split
  · exact .refl s
  · split
    · exact quiet_endLoad s _
    · exact quiet_endLoad s _

theorem quiet_classifyBlock (j : LoadJob) (o : Nat) (block : List Byte) :
    Quiet s (s.classifyBlock j o block) := by
  unfold State.classifyBlock
  split
  · exact quiet_setReport s _
  · exact ((quiet_setEntry s _ _).trans (quiet_setLoad _ _)).trans (quiet_setReport _ _)
  · exact ((quiet_setRights s _ _).trans (quiet_setLoad _ _)).trans (quiet_setReport _ _)

theorem quiet_answerRestore (b : BusIx) (before : Link → Nat) (st : Status) (body : List Byte) :
    Quiet s (s.answerRestore b before st body) := by
  unfold State.answerRestore
  split
  · exact .refl s
  · dsimp only
    split
    · exact (quiet_setLink s _ _).trans (quiet_answerAmong _ _ _ _ _ _)
    · exact quiet_setLink s _ _

end

/-! ### The load and the drain -/

/-- The B0 engine, if it is IDLE, works at nothing; asked where `W` holds. -/
def IdleB0 (W : Prop) (s : State) : Prop :=
  W → (s.engine 0).state = .idle → (s.engine 0).work = .none

theorem idleB0_of_lawful (h : W → (s.engine 0).lawful = true) : IdleB0 W s := by
  intro w hs
  simpa [Engine.lawful, hs] using h w

theorem IdleB0.engineIdle (h : IdleB0 W s) (b : BusIx) : IdleB0 W (s.engineIdle b) := by
  intro w hs
  by_cases hb : b = 0
  · subst hb
    rw [State.engineIdle, State.engine_setEngine_self]
  · simp only [State.engineIdle, State.engine_setEngine_ne s (Ne.symm hb)] at hs ⊢
    exact h w hs

theorem TxLaw.takeLoadOperation (h : TxLaw W none L s) (hi : IdleB0 W s) (lines : LineLevels) :
    TxLaw W none L (s.takeLoadOperation lines) := by
  unfold State.takeLoadOperation
  split
  · rename_i hs
    exact (quiet_beginOperation _ _ _).txLaw (h.setEngine (fun w q => by simp [hi w hs]) nofun)
  · exact (quiet_loadFailed s _).txLaw h
  · exact h

theorem TxLaw.handLoadOperation (h : TxLaw W none L s) (hi : IdleB0 W s) (st : LoadStage)
    (lines : LineLevels) : TxLaw W none L (s.handLoadOperation st lines) := by
  unfold State.handLoadOperation
  split
  · exact h
  · exact TxLaw.takeLoadOperation ((quiet_setLoad s _).txLaw h) (by exact hi) lines

theorem TxLaw.nextBlock (h : TxLaw W none L s) (hi : IdleB0 W s) (o : Nat) (lines : LineLevels) :
    TxLaw W none L (s.nextBlock o lines) := by
  unfold State.nextBlock
  split
  · exact (quiet_endLoad s _).txLaw h
  · split
    · exact h.handLoadOperation hi _ lines
    · exact h.handLoadOperation hi _ lines

theorem TxLaw.headerRead (h : TxLaw W none L s) (hi : IdleB0 W s) (o : Nat) (data : List Byte)
    (lines : LineLevels) : TxLaw W none L (s.headerRead o data lines) := by
  unfold State.headerRead
  dsimp only
  split
  · exact (quiet_endLoad s _).txLaw h
  · split
    · exact (quiet_endLoad s _).txLaw h
    · exact TxLaw.handLoadOperation ((quiet_setImage s _).txLaw h) (by exact hi) _ lines

theorem classifyBlock_engine (s : State) (j : LoadJob) (o : Nat) (block : List Byte) (b : BusIx) :
    (s.classifyBlock j o block).engine b = s.engine b := by
  unfold State.classifyBlock
  split <;> rfl

theorem TxLaw.bodyRead (h : TxLaw W none L s) (hi : IdleB0 W s) (j : LoadJob) (o len got : Nat)
    (data : List Byte) (lines : LineLevels) :
    TxLaw W none L (s.bodyRead j o len got data lines) := by
  unfold State.bodyRead
  dsimp only
  split
  · exact TxLaw.handLoadOperation ((quiet_setImage s _).txLaw h) (by exact hi) _ lines
  · refine ((quiet_classifyBlock _ j o _).txLaw ((quiet_setImage s _).txLaw h)).nextBlock ?_ _ lines
    simpa only [IdleB0, classifyBlock_engine, State.setImage_frame] using hi

theorem TxLaw.loadAdvance (h : TxLaw W none L s) (hi : IdleB0 W s) (data : List Byte)
    (lines : LineLevels) : TxLaw W none L (s.loadAdvance data lines) := by
  unfold State.loadAdvance
  split
  · exact h
  · split
    · split
      · exact h.nextBlock hi 2 lines
      · exact (quiet_endLoad s _).txLaw h
    · split
      · exact (quiet_endLoad s _).txLaw h
      · exact (quiet_endLoad s _).txLaw h
    · exact h.headerRead hi _ data lines
    · exact h.bodyRead hi _ _ _ _ data lines

/-- R148: with every record free no engine works at one. -/
theorem TxLaw.no_work_of_allFree (h : TxLaw W none L s) (hf : s.allFree = true) (b : BusIx)
    (q : PoolIx) : (s.engine b).work ≠ .record q := by
  intro hw
  obtain ⟨-, r, hr, -⟩ := h.work b q hw
  obtain ⟨-, hp⟩ := (Bool.and_eq_true _ _).mp hf
  have := List.all_eq_true.mp hp q (List.mem_finRange q)
  simp [hr] at this

theorem TxLaw.checkDrain (h : TxLaw W none L s) (lines : LineLevels) :
    TxLaw W none L (s.checkDrain lines) := by
  unfold State.checkDrain
  split
  · split
    · rename_i hf
      split
      · exact ((quiet_setRestart s _).trans (quiet_setPart _ _)).txLaw h
      · have hq : Quiet s ((((s.setRestart none).emptyCatalogue).setReport emptyReport).setLoad
            (some firstLoad)) :=
          (((quiet_setRestart s _).trans (quiet_emptyCatalogue _)).trans (quiet_setReport _ _)).trans
            (quiet_setLoad _ _)
        unfold State.beginLoad State.takeLoadOperation
        split
        · refine (quiet_beginOperation _ _ _).txLaw ((hq.txLaw h).setEngine (fun _ q => ?_) nofun)
          exact h.no_work_of_allFree hf 0 q
        · exact (quiet_loadFailed _ _).txLaw (hq.txLaw h)
        · exact hq.txLaw h
    · exact h
  · exact h

/-! ### How an engine's work ends -/

theorem TxLaw.endRecord (h : TxLaw W none [] s) (hw : (s.engine b).work = .record p) (st : Status)
    (n : Nat) (lines : LineLevels) : TxLaw W none [] (s.endRecord b p st n lines) :=
  ((h.engineIdle hw).complete List.not_mem_nil st n).checkDrain lines

theorem quiet_retry {limit : Nat} (h : s.retry? b limit = some t) : Quiet s t := by
  unfold State.retry? at h
  split at h
  · cases h
    exact quiet_setEngine s fun _ => .rfl
  · cases h

theorem TxLaw.retryRecord (h : TxLaw W none [] s) (hw : (s.engine b).work = .record p)
    (lines : LineLevels) : TxLaw W none [] (s.retryRecord b p r lines) := by
  unfold State.retryRecord
  split
  · rename_i hs
    exact (quiet_retry hs).txLaw h
  · exact h.endRecord hw _ _ lines

theorem same_nextSegment {r' : Record} (h : r.nextSegment = some r') : Same r r' := by
  unfold Record.nextSegment at h
  (repeat' split at h) <;> cases h <;> exact ⟨rfl, rfl, rfl, rfl, rfl, id⟩

theorem same_raised (r : Record) (n : Nat) : Same r (r.raised n) := by
  unfold Record.raised
  split
  · exact ⟨rfl, rfl, rfl, rfl, rfl, id⟩
  · exact .refl r

theorem TxLaw.segmentBoundary (h : TxLaw W none [] s) (hw : (s.engine b).work = .record p)
    (hr : s.record p = some r) (lines : LineLevels) :
    TxLaw W none [] (s.segmentBoundary b p r lines) := by
  unfold State.segmentBoundary
  split
  · exact h.endRecord hw _ _ lines
  · rename_i r' hr'
    have h' := (quiet_setRecord hr (same_nextSegment hr')).txLaw h
    dsimp only
    split
    · exact h'.endRecord (by simpa using hw) _ _ lines
    · exact (quiet_beginOperation _ _ _).txLaw h'

theorem TxLaw.segmentSent (h : TxLaw W none [] s) (hw : (s.engine b).work = .record p)
    (hr : s.record p = some r) (lines : LineLevels) :
    TxLaw W none [] (s.segmentSent b p r lines) := by
  have h' := (quiet_setRecord hr (same_raised r r.segmentLength)).txLaw h
  unfold State.segmentSent
  dsimp only
  split
  · exact (quiet_lineCheck _ _ _ _).txLaw h'
  · exact h'.segmentBoundary (by simpa using hw) (by simp) lines

theorem TxLaw.pollRefused (h : TxLaw W none [] s) (hw : (s.engine b).work = .record p) (n : Nat)
    (lines : LineLevels) : TxLaw W none [] (s.pollRefused b p r n lines) := by
  unfold State.pollRefused
  split
  · exact (quiet_setEngineState _ _ _).txLaw h
  · exact h.endRecord hw _ _ lines

/-! ### FAULT and the end of a recovery -/

theorem TxLaw.failWork {w : Work} (h : TxLaw W none (w.records ++ L) s)
    (hn : (w.records ++ L).Nodup) (st : Status) : TxLaw W none L (s.failWork w st) := by
  cases w with
  | none => exact h
  | restore => exact h
  | load => exact (quiet_loadFailed s _).txLaw h
  | record p =>
    obtain ⟨r, hr, -⟩ := h.loose p List.mem_cons_self
    simp only [State.failWork, hr]
    exact TxLaw.complete h (List.nodup_cons.mp hn).1 st _

theorem TxLaw.enterFault (h : TxLaw W none [] s) (b : BusIx) (reason : FaultReason) (st : Status)
    (lines : LineLevels) : TxLaw W none [] (s.enterFault b reason st lines) := by
  obtain ⟨hf, hn⟩ := h.setFault b reason
  have hw := hf.failWork hn st
  refine ((quiet_busNotices _ _ _ _).txLaw (TxLaw.failQueue _ ?_ ?_)).checkDrain lines
  · simpa using (List.nodup_append.mp hn).2.1
  · simpa using hw

/-- Where nothing is asked of the engines' work, an ACTIVE record need not be listed as loose. -/
theorem TxLaw.unlist (h : TxLaw W none (p :: L) s) (hw : ¬ W) (hp : s.recordOn p .active b)  :
    TxLaw W none L s where
  queue_nodup := h.queue_nodup
  mem_queue := fun c q => by
    rw [h.mem_queue c q, List.mem_cons, not_or]
    refine ⟨fun ⟨⟨_, hL⟩, hq⟩ => ⟨hL, hq⟩, fun ⟨hL, hq⟩ => ⟨⟨?_, hL⟩, hq⟩⟩
    rintro rfl
    cases (recordOn_state hp hq).1
  work := fun c q hc => by
    obtain ⟨hL, ha⟩ := h.work c q hc
    exact ⟨fun hq => hL (List.mem_cons_of_mem _ hq), ha⟩
  worked := fun w => absurd w hw
  done_nodup := h.done_nodup
  mem_done := h.mem_done
  destined := h.destined
  loose := fun q hq => h.loose q (List.mem_cons_of_mem _ hq)
  flight := h.flight
  store := h.store

theorem TxLaw.restoreEnds (h : TxLaw W none [] s)
    (hw : W → ∀ q, (s.engine b).work ≠ .record q) (res : RecoveryResult) :
    TxLaw W none [] (s.restoreEnds b res) := by
  have hfail : ∀ reason, TxLaw W none [] ((s.setFault b reason).failQueue (s.busQueue b)) := by
    intro reason
    obtain ⟨hf, hn⟩ := h.setFault b reason
    refine TxLaw.failQueue _ (by simpa using (List.nodup_append.mp hn).2.1) ?_
    rw [List.append_nil]
    cases hwork : (s.engine b).work with
    | record q =>
      have ha := (h.work b q hwork).2
      rw [hwork] at hf
      refine TxLaw.unlist (b := b) hf (fun w => hw w q hwork) ?_
      simpa [State.recordOn, State.setFault] using ha
    | _ => simpa [hwork, Work.records] using hf
  unfold State.restoreEnds
  dsimp only
  split
  · exact ((quiet_answerRestore _ _ _ _ _).trans (quiet_busNotices _ _ _ _)).txLaw
      (h.setEngine hw nofun)
  · exact (quiet_answerRestore _ _ _ _ _).txLaw (hfail _)

theorem TxLaw.engineIdle_of_no_record (h : TxLaw W none L s)
    (hw : ∀ q, (s.engine b).work ≠ .record q) : TxLaw W none L (s.engineIdle b) :=
  h.setEngine (fun _ => hw) nofun

theorem TxLaw.stretchRecovered (h : TxLaw W none [] s) (lines : LineLevels) :
    TxLaw W none [] (s.stretchRecovered b lines) := by
  unfold State.stretchRecovered
  split
  · rename_i q hq
    split
    · exact h.endRecord hq _ _ lines
    · rename_i hnone
      obtain ⟨-, r, hr, -⟩ := h.work b q hq
      cases hnone.symm.trans hr
  · rename_i hq
    exact (quiet_loadFailed _ _).txLaw (h.engineIdle_of_no_record (by simp [hq]))
  · rename_i hq _
    exact h.engineIdle_of_no_record hq

/-! ### The engine events -/

theorem TxLaw.takeWork (h : TxLaw W none [] s) (hl : W → ∀ b, (s.engine b).lawful = true) (b : BusIx)
    (lines : LineLevels) : TxLaw W none [] (s.takeWork b lines) := by
  unfold State.takeWork
  split
  · rename_i hs
    split
    · exact h.takeLoadOperation (idleB0_of_lawful fun w => hl w 0) lines
    · split
      · exact h
      · rename_i q rest hq
        split
        · rename_i r hr
          refine h.takeHead hq hr (fun w => ?_) lines
          have := hl w b
          simp only [Engine.lawful, hs, decide_eq_true_eq] at this
          simp [this]
        · exact h
  · exact h

theorem quiet_attemptRun {readings : List Bool} {a : Attempt} {run : BusRun}
    (h : s.attemptRun b readings = some (a, run, t)) :
    Quiet s t ∧ (t.engine b).work = (s.engine b).work ∧ ∀ q, t.record q = s.record q := by
  obtain ⟨plan, -, -, rfl⟩ := attemptRun_some h
  exact ⟨quiet_setGiven s b _, by simp, fun _ => rfl⟩

theorem attemptRun_idleB0 {readings : List Bool} {a : Attempt} {run : BusRun}
    (h : s.attemptRun b readings = some (a, run, t)) (hi : IdleB0 W s) : IdleB0 W t := by
  obtain ⟨plan, -, -, rfl⟩ := attemptRun_some h
  intro w hs
  simp only [State.setGiven, State.engine_setEngine] at hs ⊢
  split at hs
  · rename_i hb
    subst hb
    rw [if_pos rfl]
    exact hi w hs
  · rename_i hb
    rw [if_neg hb]
    exact hi w hs

theorem TxLaw.readEnds (h : TxLaw W none [] s) (hw : (s.engine b).work = .record p)
    (hr : s.record p = some r) (run : BusRun) (lines : LineLevels) :
    TxLaw W none [] (s.readEnds b p r run lines) := by
  unfold State.readEnds
  split
  · exact h.retryRecord hw lines
  · exact TxLaw.endRecord ((quiet_setRecord (r' := { r with data := run.data }) hr
      ⟨rfl, rfl, rfl, rfl, rfl, id⟩).txLaw h) (by simpa using hw) _ _ lines

theorem TxLaw.loadEnds (h : TxLaw W none [] s) (hi : IdleB0 W s) (hw : (s.engine b).work = .load)
    (run : BusRun) (lines : LineLevels) : TxLaw W none [] (s.loadEnds b run lines) := by
  have h' : TxLaw W none [] (s.engineIdle b) := h.engineIdle_of_no_record (by simp [hw])
  unfold State.loadEnds
  split
  · split
    · rename_i hs
      exact (quiet_retry hs).txLaw h
    · exact (quiet_loadFailed _ _).txLaw h'
  · exact h'.loadAdvance (hi.engineIdle b) _ lines

theorem TxLaw.readOperationEnds (h : TxLaw W none [] s) (hi : IdleB0 W s) (b : BusIx)
    (readings : List Bool) (lines : LineLevels) :
    TxLaw W none [] (s.readOperationEnds b readings lines) := by
  unfold State.readOperationEnds
  split
  · rename_i run s' ha
    obtain ⟨hq, hwork, hrec⟩ := quiet_attemptRun ha
    split
    · rename_i q hw
      split
      · rename_i r hr
        split
        · exact (hq.txLaw h).readEnds (hwork.trans hw) ((hrec q).trans hr) run lines
        · exact h
      · exact h
    · rename_i hw
      exact (hq.txLaw h).loadEnds (attemptRun_idleB0 ha hi) (hwork.trans hw) run lines
    · exact h
  · exact h

theorem TxLaw.segmentEnds (h : TxLaw W none [] s) (hw : (s.engine b).work = .record p)
    (hr : s.record p = some r) (run : BusRun) (lines : LineLevels) :
    TxLaw W none [] (s.segmentEnds b p r run lines) := by
  unfold State.segmentEnds
  split
  · split
    · exact h.retryRecord hw lines
    · exact h.endRecord hw _ _ lines
  · exact h.segmentSent hw hr lines

theorem TxLaw.writeSegmentEnds (h : TxLaw W none [] s) (b : BusIx) (readings : List Bool)
    (lines : LineLevels) : TxLaw W none [] (s.writeSegmentEnds b readings lines) := by
  unfold State.writeSegmentEnds
  split
  · rename_i run s' ha
    obtain ⟨hq, hwork, hrec⟩ := quiet_attemptRun ha
    split
    · rename_i q hw
      split
      · rename_i r hr
        split
        · exact h
        · exact (hq.txLaw h).segmentEnds (hwork.trans hw) ((hrec q).trans hr) run lines
      · exact h
    · exact h
  · exact h

theorem TxLaw.busyPollEnds (h : TxLaw W none [] s) (b : BusIx) (readings : List Bool)
    (lines : LineLevels) : TxLaw W none [] (s.busyPollEnds b readings lines) := by
  unfold State.busyPollEnds
  split
  · rename_i began run s' ha
    obtain ⟨hq, hwork, hrec⟩ := quiet_attemptRun ha
    split
    · rename_i q hw
      split
      · rename_i r hr
        split
        · exact (hq.txLaw h).pollRefused (hwork.trans hw) began lines
        · exact (hq.txLaw h).segmentBoundary (hwork.trans hw) ((hrec q).trans hr) lines
      · exact h
    · exact h
  · exact h

theorem quiet_retryWaitExpires (s : State) (b : BusIx) (lines : LineLevels) :
    Quiet s (s.retryWaitExpires b lines) := by
  unfold State.retryWaitExpires
  split
  · exact (quiet_advanceTo s _).trans (quiet_lineCheck _ _ _ _)
  · exact .refl s

theorem quiet_pollWaitExpires (s : State) (b : BusIx) (lines : LineLevels) :
    Quiet s (s.pollWaitExpires b lines) := by
  unfold State.pollWaitExpires
  split
  · exact (quiet_advanceTo s _).trans (quiet_lineCheck _ _ _ _)
  · exact .refl s

theorem same_cutOff (r : Record) (run : BusRun) : Same r (r.cutOff run) := by
  unfold Record.cutOff
  split
  · exact ⟨rfl, rfl, rfl, rfl, rfl, id⟩
  · exact same_raised r _

theorem quiet_keepStretched (s : State) (b : BusIx) (a : Attempt) (run : BusRun) :
    Quiet s (s.keepStretched b a run) := by
  unfold State.keepStretched
  split
  · split
    · rename_i r hr
      exact quiet_setRecord hr (same_cutOff r run)
    · exact .refl s
  · exact .refl s

theorem quiet_stretchFault (s : State) (b : BusIx) (point : StretchPoint) :
    Quiet s (s.stretchFault b point) := by
  unfold State.stretchFault
  split
  · split
    · exact ((quiet_keepStretched s b _ _).trans (quiet_setGiven _ b _)).trans
        (quiet_setEngineState _ b _)
    · exact .refl s
  · exact .refl s

theorem TxLaw.clockStuck (h : TxLaw W none [] s) (b : BusIx) (lines : LineLevels) :
    TxLaw W none [] (s.clockStuck b lines) := by
  unfold State.clockStuck
  split
  · exact h.enterFault b _ _ lines
  · exact h

theorem TxLaw.lineRecoveryEnds (h : TxLaw W none [] s) (b : BusIx) (a : Attempt)
    (res : RecoveryResult) (lines : LineLevels) :
    TxLaw W none [] (s.lineRecoveryEnds b a res lines) := by
  unfold State.lineRecoveryEnds
  split
  · exact (quiet_setEngineState _ _ _).txLaw h
  · exact h.enterFault b _ _ lines

theorem TxLaw.recoveryOutcome (h : TxLaw W none [] s) (hl : W → (s.engine b).lawful = true)
    (res : RecoveryResult) (lines : LineLevels) :
    TxLaw W none [] (s.recoveryOutcome b res lines) := by
  unfold State.recoveryOutcome
  split
  · exact h.lineRecoveryEnds b _ res lines
  · exact h.lineRecoveryEnds b _ res lines
  · unfold State.stretchRecoveryEnds
    split
    · exact h.stretchRecovered lines
    · exact h.enterFault b _ _ lines
  · rename_i hs
    refine h.restoreEnds (fun w => ?_) res
    have := hl w
    simp only [Engine.lawful, hs, decide_eq_true_eq] at this
    simp [this]
  · exact h

theorem TxLaw.recoveryEnds (h : TxLaw W none [] s) (hl : W → (s.engine b).lawful = true)
    (met : List LineLevels) (lines : LineLevels) :
    TxLaw W none [] (s.recoveryEnds b met lines) := by
  unfold State.recoveryEnds
  split
  · split
    · exact ((quiet_setGiven s b _).txLaw h).recoveryOutcome (fun w => by simpa [Engine.lawful] using hl w)
        _ lines
    · exact h
  · exact h

theorem quiet_clockRises (s : State) (b : BusIx) (lines : LineLevels) :
    Quiet s (s.clockRises b lines) := by
  unfold State.clockRises
  split
  · exact quiet_lineCheck s _ _ _
  · exact .refl s

theorem quiet_tick (s : State) : Quiet s s.tick :=
  .of_frame (fun _ => rfl) (fun _ => rfl) (fun _ => rfl) (fun _ => rfl) rfl fun _ => rfl

theorem quiet_idles (s : State) : Quiet s s.idles := by
  unfold State.idles
  dsimp only
  split
  · refine (quiet_setFreeCount s (s.freeCount + 1)).trans ?_
    split
    · exact quiet_clockRises _ _ _
    · exact quiet_clockRises _ _ _
    · exact quiet_clockRises _ _ _
    · exact quiet_clockRises _ _ _
    · exact quiet_tick _
  · exact quiet_tick s

end Sys2Proof.Machine

/-! Every command keeps the law of the transaction unit (`txLaw_exec`), and with the engines' law every step
does (O60). -/

namespace Sys2Proof.Machine

variable {s t u : State} {W : Prop} {L : List PoolIx} {p : PoolIx} {r : Record} {b : BusIx} {l : Link}

/-! ### Requests -/

theorem TxLaw.serve (h : TxLaw W none [] s) (l : Link) (r : Request)
    (owner : Link → Frame → State → State)
    (ho : ∀ u f, TxLaw W none [] u → (∀ b, u.engine b = s.engine b) →
      TxLaw W none [] (owner l f u)) : TxLaw W none [] (s.serve l r owner) := by
  unfold State.serve
  split
  · exact h
  · rename_i f s' htake
    obtain ⟨-, rest, -, rfl⟩ := takeFrame_eq htake
    have h' : TxLaw W none [] (s.taking l rest) := (quiet_setLink s l _).txLaw h
    split
    · exact (quiet_answer _ l _ _ _).txLaw h'
    · exact ho _ f h' (by simp)

section

variable (h : TxLaw W none [] s) (l : Link) (f : Frame)

include h

theorem TxLaw.answer (tag : Byte) (st : Status) (body : List Byte) :
    TxLaw W none [] (s.answer l tag st body) :=
  (quiet_answer s l tag st body).txLaw h

theorem TxLaw.openSession (key : Nat) : TxLaw W none [] (s.openSession l key) :=
  ((quiet_clearNotices s l).trans (quiet_putSession _ l _)).txLaw h

theorem TxLaw.serveHello : TxLaw W none [] (serveHello l f s) := by
  unfold Machine.serveHello
  split
  · exact h.answer l _ _ _
  · unfold State.helloByState
    split
    · exact (h.openSession l _).answer l _ _ _
    · split
      · exact h.answer l _ _ _
      · exact ((h.teardown l).openSession l _).answer l _ _ _
    · split
      · exact TxLaw.answer ((quiet_putSession s l _).txLaw h) l _ _ _
      · exact ((h.teardown l).openSession l _).answer l _ _ _

theorem TxLaw.serveOpen : TxLaw W none [] (serveOpen l f s) := by
  unfold Machine.serveOpen
  split
  · exact h.answer l _ _ _
  · rename_i a _
    unfold State.admitOpen
    split
    · exact h.answer l _ _ _
    · exact h.answer l _ _ _
    · split
      · exact h.answer l _ _ _
      · split
        · exact h.answer l _ _ _
        · split
          · exact h.answer l _ _ _
          · split
            · exact h.answer l _ _ _
            · rename_i i hi
              have hf := lowestFree_free hi
              split
              · exact TxLaw.answer (((quiet_leaveFree s hf rfl fun _ he => by cases he).trans
                  (quiet_warnIfDue _ i)).txLaw h) l _ _ _
              · unfold State.openContended
                split
                · exact h.answer l _ _ _
                · split
                  · exact h.answer l _ _ _
                  · exact TxLaw.answer (((quiet_leaveFree s hf rfl fun _ he => by cases he).trans
                      (quiet_setEntry _ _ _)).txLaw h) l _ _ _

theorem TxLaw.serveRenew : TxLaw W none [] (serveRenew l f s) := by
  unfold Machine.serveRenew
  split
  · exact h.answer l _ _ _
  · split
    · exact h.answer l _ _ _
    · exact h.answer l _ _ _
    · rename_i i hs hc
      obtain ⟨-, -, hb, -⟩ := checkHandle_held hc
      unfold State.renewHeld
      dsimp only
      exact TxLaw.answer ((quiet_warnIfDue _ i).txLaw ((quiet_setHeld s hb (by rfl) (by rfl)).txLaw h))
        l _ _ _

theorem TxLaw.serveRelease : TxLaw W none [] (serveRelease l f s) := by
  unfold Machine.serveRelease
  split
  · exact h.answer l _ _ _
  · rename_i i w hc
    obtain ⟨-, -, hb, -⟩ := checkHandle_waiting hc
    exact TxLaw.answer (((quiet_vacate s _ (by rw [hb]; rfl)).trans
      (quiet_grantPassIf _ _ _)).txLaw h) l _ _ _
  · rename_i i hs hc
    obtain ⟨-, -, hb, -⟩ := checkHandle_held hc
    split
    · exact h.answer l _ _ _
    · rename_i hin
      have hin : (s.slot i).body.inFlight? = none := by
        simpa [hb, SlotBody.inFlight?] using hin
      exact TxLaw.answer (((quiet_vacate s _ hin).trans (quiet_grantPass _ _)).txLaw h) l _ _ _

theorem TxLaw.changeToShared {i : SlotIx} {hs : HeldSlot} (hb : (s.slot i).body = .held hs) :
    TxLaw W none [] (s.changeToShared i hs) := by
  unfold State.changeToShared
  split
  · exact (quiet_grantPass _ _).txLaw ((quiet_setHeld s hb (by rfl) (by rfl)).txLaw h)
  · split
    · exact ((quiet_leaveQueue _ _ _).trans (quiet_grantPass _ _)).txLaw
        ((quiet_setHeld s hb (by rfl) (by rfl)).txLaw h)
    · exact h

theorem TxLaw.changeToExclusive {i : SlotIx} {hs : HeldSlot} (hb : (s.slot i).body = .held hs)
    (wait : Nat) : TxLaw W none [] (s.changeToExclusive l i hs wait).2 := by
  unfold State.changeToExclusive
  extract_lets cls s'
  split
  · exact h
  · split
    · exact h
    · split
      · exact (quiet_setHeld s hb (by rfl) (by rfl)).txLaw h
      · split
        · exact h
        · split
          · exact h
          · split
            · exact h
            · exact (quiet_setEntry _ _ _).txLaw ((quiet_setHeld s hb (by rfl) (by rfl)).txLaw h)

theorem TxLaw.serveChangeMode : TxLaw W none [] (serveChangeMode l f s) := by
  unfold Machine.serveChangeMode
  split
  · exact h.answer l _ _ _
  · split
    · exact h.answer l _ _ _
    · split
      · exact h.answer l _ _ _
      · exact h.answer l _ _ _
      · rename_i i hs hc
        obtain ⟨-, -, hb, -⟩ := checkHandle_held hc
        split
        · exact h.answer l _ _ _
        · split
          · exact (h.changeToShared hb).answer l _ _ _
          · exact (h.changeToExclusive l hb _).answer l _ _ _

theorem TxLaw.serveRevoke : TxLaw W none [] (serveRevoke l f s) := by
  unfold Machine.serveRevoke
  split
  · exact h.answer l _ _ _
  · unfold State.revokeSlot
    split
    · split
      · exact h.answer l _ _ _
      · exact h.answer l _ _ _
      · exact h.answer l _ _ _
      · rename_i hs hb
        exact (quiet_answerAmong _ _ _ _ _ _).txLaw (h.endLeaseAndPass hb _)
    · exact h.answer l _ _ _

theorem TxLaw.serveTransaction (kind : TxKind) (hk : kind ≠ .store) (count : Nat)
    (data : List Byte) : TxLaw W none [] (serveTransaction kind l f count data s) := by
  unfold Machine.serveTransaction
  split
  · exact h.answer l _ _ _
  · exact h.answer l _ _ _
  · rename_i i hs hc
    obtain ⟨-, -, hb, ho⟩ := checkHandle_held hc
    split
    · exact h.answer l _ _ _
    · rename_i q fields ha
      obtain ⟨-, hin, -, -, hq⟩ := admitTransaction_ok ha
      exact (h.acceptTransaction hb hin hq rfl rfl (congrArg some ho.symm) hk).answerLater l

theorem TxLaw.serveCollect : TxLaw W none [] (serveCollect l f s) := by
  unfold Machine.serveCollect
  dsimp only
  split
  · exact h.answer l _ _ _
  · exact TxLaw.answer (((quiet_setNotice s l _).trans (quiet_refreshAttn _ l)).txLaw h) l _ _ _

theorem TxLaw.serveSetTarget : TxLaw W none [] (serveSetTarget l f s) := by
  unfold Machine.serveSetTarget
  split
  · exact h.answer l _ _ _
  · split
    · unfold State.writeTarget
      split
      · exact h.answer l _ _ _
      · split
        · exact TxLaw.answer ((quiet_setEntry s _ _).txLaw h) l _ _ _
        · exact h.answer l _ _ _
        · split
          · exact h.answer l _ _ _
          · exact TxLaw.answer ((quiet_setEntry s _ _).txLaw h) l _ _ _
    · exact h.answer l _ _ _

theorem TxLaw.dropSlot (e : EntryIx) (i : SlotIx) : TxLaw W none [] (State.dropSlot e s i) := by
  unfold State.dropSlot
  split
  · rename_i w hb
    split
    · exact ((quiet_vacate s _ (by rw [hb]; rfl)).trans (quiet_offerNotice _ _ _)).txLaw h
    · exact h
  · rename_i hs hb
    split
    · exact h.endLease hb _
    · exact h
  · exact h
  · exact h

theorem TxLaw.dropPresent (e : EntryIx) (fields : TargetFields) :
    TxLaw W none [] (s.dropPresent e fields) :=
  (quiet_setEntry _ _ _).txLaw
    (foldl_keep (P := TxLaw W none []) (State.dropSlot e) (fun _ i h => h.dropSlot e i) s _ h)

theorem TxLaw.serveDropTarget : TxLaw W none [] (serveDropTarget l f s) := by
  unfold Machine.serveDropTarget
  split
  · exact h.answer l _ _ _
  · split
    · exact h.answer l _ _ _
    · exact h.answer l _ _ _
    · exact (quiet_answerAmong _ _ _ _ _ _).txLaw (h.dropPresent _ _)

theorem TxLaw.serveSetRights : TxLaw W none [] (serveSetRights l f s) := by
  unfold Machine.serveSetRights
  split
  · exact h.answer l _ _ _
  · split
    · exact TxLaw.answer ((quiet_setRights s _ _).txLaw h) l _ _ _
    · exact h.answer l _ _ _

theorem TxLaw.serveBusRestore (hl : W → ∀ b, (s.engine b).lawful = true) :
    TxLaw W none [] (serveBusRestore l f s) := by
  unfold Machine.serveBusRestore
  split
  · exact h.answer l _ _ _
  · rename_i b _
    split
    · rename_i hf
      have hf : (s.engine b).state = .fault := by simpa [State.busFaulted] using hf
      refine (quiet_setLink _ l _).txLaw (h.setEngine (fun w q => ?_) nofun)
      have := hl w b
      simp only [Engine.lawful, hf, decide_eq_true_eq] at this
      simp [this]
    · exact h.answer l _ _ _

theorem TxLaw.serveSaveCatalogue : TxLaw W none [] (serveSaveCatalogue l f s) := by
  unfold Machine.serveSaveCatalogue
  split
  · exact h.answer l _ _ _
  · rename_i hj
    split
    · exact h.answer l _ _ _
    · split
      · exact h.answer l _ _ _
      · rename_i q hq
        have h' : TxLaw W none [] (s.setImage s.buildImage) := (quiet_setImage s _).txLaw h
        exact (h'.enqueueStore (r := storeRecord l f.tag s.buildImage.length)
          (by simpa using (roomFor_some hq).2) rfl rfl rfl (by simpa using hj)).answerLater l

theorem TxLaw.serveRestart : TxLaw W none [] (serveRestart l f s) := by
  unfold Machine.serveRestart
  split
  · exact h.answer l _ _ _
  · split
    · exact h.answer l _ _ _
    · exact ((quiet_setPart _ _).trans (quiet_setRestart _ _)).txLaw (h.answer l _ _ _)

theorem TxLaw.serveUnlisted : TxLaw W none [] (s.serveUnlisted l) := by
  unfold State.serveUnlisted
  split
  · exact h
  · rename_i f s' htake
    obtain ⟨-, rest, -, rfl⟩ := takeFrame_eq htake
    exact TxLaw.answer ((quiet_setLink s l _).txLaw h) l _ _ _

/-! ### Timers, links and start-up -/

theorem TxLaw.termExpires (i : SlotIx) : TxLaw W none [] (s.termExpires i) := by
  unfold State.termExpires
  split
  · rename_i hs hb
    exact TxLaw.endLeaseAndPass ((quiet_advanceTo s _).txLaw h) (by simpa using hb) _
  · exact h

theorem TxLaw.warningFallsDue (i : SlotIx) : TxLaw W none [] (s.warningFallsDue i) := by
  unfold State.warningFallsDue
  split
  · split
    · exact ((quiet_advanceTo s _).trans (quiet_warnIfDue _ i)).txLaw h
    · exact h
  · exact h

theorem TxLaw.waitExpires (i : SlotIx) : TxLaw W none [] (s.waitExpires i) := by
  unfold State.waitExpires
  split
  · rename_i w hb
    exact ((((quiet_advanceTo s _).trans (quiet_vacate _ _ (by simp [hb, SlotBody.inFlight?]))).trans
      (quiet_offerNotice _ _ _)).trans (quiet_grantPassIf _ _ _)).txLaw h
  · exact h

theorem TxLaw.upgradeExpires (i : SlotIx) : TxLaw W none [] (s.upgradeExpires i) := by
  unfold State.upgradeExpires
  split
  · rename_i hs hb
    split
    · rename_i d _
      exact (((quiet_leaveQueue _ _ _).trans (quiet_offerNotice _ _ _)).trans
        (quiet_grantPass _ _)).txLaw ((quiet_setHeld (s.advanceTo d) hb (by rfl) (by rfl)).txLaw
          ((quiet_advanceTo s d).txLaw h))
    · exact h
  · exact h

theorem TxLaw.graceExpires : TxLaw W none [] (s.graceExpires l) := by
  unfold State.graceExpires
  split
  · exact TxLaw.teardown ((quiet_advanceTo s _).txLaw h) l
  · exact h

theorem TxLaw.restartTears (lines : LineLevels) : TxLaw W none [] (s.restartTears l lines) := by
  unfold State.restartTears
  split
  · split
    · dsimp only
      split
      · exact TxLaw.checkDrain ((quiet_setRestart s _).txLaw h) lines
      · exact TxLaw.checkDrain ((quiet_setRestart _ _).txLaw (h.teardown l)) lines
    · exact h
  · exact h

theorem TxLaw.breakFound : TxLaw W none [] (s.breakFound l) := by
  unfold State.breakFound
  split
  · exact h.linkDown l
  · exact (quiet_setLink s l _).txLaw h

theorem TxLaw.idleFound : TxLaw W none [] (s.idleFound l) := by
  unfold State.idleFound
  split
  · exact h
  · exact ((quiet_advanceTo s _).trans (quiet_setLink _ l _)).txLaw h

theorem TxLaw.framerRejects (reason : RejectReason) : TxLaw W none [] (s.framerRejects l reason) :=
  TxLaw.givePlace ((quiet_setLink s l _).txLaw h) l

theorem TxLaw.charReceived (c : Byte) : TxLaw W none [] (s.charReceived l c) := by
  unfold State.charReceived
  split
  · unfold State.framerTakes
    split
    · split
      · exact (quiet_setLink s l _).txLaw h
      · exact h
    · split
      · exact h.framerRejects l _
      · exact (quiet_setLink s l _).txLaw h
    · split
      · exact (quiet_setLink s l _).txLaw h
      · unfold State.frameEnds
        dsimp only
        split
        · exact h.framerRejects l _
        · split
          · exact (quiet_setLink s l _).txLaw h
          · exact h.framerRejects l _
  · exact h

theorem TxLaw.badCharacter : TxLaw W none [] (s.badCharacter l) := by
  unfold State.badCharacter
  split
  · exact h
  · exact h
  · exact h.framerRejects l _
  · exact h.framerRejects l _

theorem TxLaw.gapExpires : TxLaw W none [] (s.gapExpires l) := by
  unfold State.gapExpires
  split
  · exact h
  · exact TxLaw.framerRejects ((quiet_advanceTo s _).txLaw h) l _
  · exact TxLaw.framerRejects ((quiet_advanceTo s _).txLaw h) l _

theorem TxLaw.transmitStarts (holdin : Bool) : TxLaw W none [] (s.transmitStarts l holdin) := by
  unfold State.transmitStarts
  dsimp only
  split
  · split
    · exact (quiet_setLink s l _).txLaw h
    · exact h
  · exact h

theorem TxLaw.frameSent : TxLaw W none [] (s.frameSent l) := by
  unfold State.frameSent
  dsimp only
  split
  · exact TxLaw.placeFreed ((quiet_setLink s l _).txLaw h) l
  · exact h

end

/-! ### The commands -/

/-- Every command but COLD_START keeps the law of the transaction unit; that an ACTIVE record is its
engine's work it keeps on lawful engines. -/
theorem txLaw_exec {c : Instr} (hc : isColdStart c = false) (h : exec c s = .next t)
    (hl : W → ∀ b, (s.engine b).lawful = true) (hs : TxLaw W none [] s) : TxLaw W none [] t := by
  cases c with
  | coldStart => cases hc
  | hello l => cases h; exact hs.serve l _ _ fun u f hu _ => hu.serveHello l f
  | bye l => cases h; exact hs.serve l _ _ fun u f hu _ => (hu.answer l _ _ _).teardown l
  | openLease l => cases h; exact hs.serve l _ _ fun u f hu _ => hu.serveOpen l f
  | renew l => cases h; exact hs.serve l _ _ fun u f hu _ => hu.serveRenew l f
  | release l => cases h; exact hs.serve l _ _ fun u f hu _ => hu.serveRelease l f
  | changeMode l => cases h; exact hs.serve l _ _ fun u f hu _ => hu.serveChangeMode l f
  | read l =>
    cases h; exact hs.serve l _ _ fun u f hu _ => hu.serveTransaction l f .read nofun _ _
  | write l =>
    cases h; exact hs.serve l _ _ fun u f hu _ => hu.serveTransaction l f .write nofun _ _
  | collect l => cases h; exact hs.serve l _ _ fun u f hu _ => hu.serveCollect l f
  | queryTarget l =>
    cases h
    refine hs.serve l _ _ fun u f hu _ => ?_
    unfold serveQueryTarget
    split <;> exact hu.answer l _ _ _
  | querySlot l =>
    cases h
    refine hs.serve l _ _ fun u f hu _ => ?_
    unfold serveQuerySlot
    split <;> exact hu.answer l _ _ _
  | queryBus l =>
    cases h
    refine hs.serve l _ _ fun u f hu _ => ?_
    unfold serveQueryBus
    split <;> exact hu.answer l _ _ _
  | queryLink l =>
    cases h
    refine hs.serve l _ _ fun u f hu _ => ?_
    unfold serveQueryLink
    split <;> exact hu.answer l _ _ _
  | queryStart l => cases h; exact hs.serve l _ _ fun u f hu _ => hu.answer l _ _ _
  | setTarget l => cases h; exact hs.serve l _ _ fun u f hu _ => hu.serveSetTarget l f
  | dropTarget l => cases h; exact hs.serve l _ _ fun u f hu _ => hu.serveDropTarget l f
  | setRights l => cases h; exact hs.serve l _ _ fun u f hu _ => hu.serveSetRights l f
  | revoke l => cases h; exact hs.serve l _ _ fun u f hu _ => hu.serveRevoke l f
  | busRestore l =>
    cases h
    exact hs.serve l _ _ fun u f hu he => hu.serveBusRestore l f fun w b => by rw [he]; exact hl w b
  | saveCatalogue l => cases h; exact hs.serve l _ _ fun u f hu _ => hu.serveSaveCatalogue l f
  | restart l => cases h; exact hs.serve l _ _ fun u f hu _ => hu.serveRestart l f
  | unlistedCodeRequest l => cases h; exact hs.serveUnlisted l
  | termExpiry i => cases h; exact hs.termExpires i
  | lapseWarning i => cases h; exact hs.warningFallsDue i
  | waitExpiry i => cases h; exact hs.waitExpires i
  | upgradeWaitExpiry i => cases h; exact hs.upgradeExpires i
  | graceExpiry l => cases h; exact hs.graceExpires l
  | restartTeardown l lines => cases h; exact hs.restartTears l lines
  | lineBreak l => cases h; exact hs.breakFound l
  | linkUp l => cases h; exact hs.idleFound l
  | characterReceived l c => cases h; exact hs.charReceived l c
  | badCharacter l => cases h; exact hs.badCharacter l
  | gapTimerExpiry l => cases h; exact hs.gapExpires l
  | transmitFrameStart l holdin => cases h; exact hs.transmitStarts l holdin
  | frameSent l => cases h; exact hs.frameSent l
  | takeRecord b lines => cases h; exact hs.takeWork hl b lines
  | readOperationEnd b readings lines =>
    cases h; exact hs.readOperationEnds (idleB0_of_lawful fun w => hl w 0) b readings lines
  | writeSegmentEnd b readings lines => cases h; exact hs.writeSegmentEnds b readings lines
  | busyPollEnd b readings lines => cases h; exact hs.busyPollEnds b readings lines
  | addressRetryWaitExpiry b lines => cases h; exact (quiet_retryWaitExpires s b lines).txLaw hs
  | busyPollWaitExpiry b lines => cases h; exact (quiet_pollWaitExpires s b lines).txLaw hs
  | clockStretchFault b point => cases h; exact (quiet_stretchFault s b point).txLaw hs
  | lineCheckClockStuck b lines => cases h; exact hs.clockStuck b lines
  | recoveryEnd b met lines => cases h; exact hs.recoveryEnds (fun w => hl w b) met lines

/-! ### O60 -/

theorem engineLaw_effect (h : Effect s t) (hs : s.EngineLaw) : t.EngineLaw := by
  cases h with
  | engine b e q hl =>
    intro c
    by_cases hc : b = c
    · subst hc
      simpa [EngineLawful] using hl (hs b)
    · simpa [State.engine_setEngine_ne, State.busQueue_setBusQueue, hc, Ne.symm hc] using hs c
  | drainedReload => exact hs
  | pool => exact hs
  | _ =>
    intro c
    simpa [State.vacate, State.freeSlot_eq, State.leaveQueue, State.setWaitQueue_eq, State.setBody_eq,
      State.retire, State.makePresent] using hs c

/-- The law of the transaction unit with nothing in it. -/
theorem transactionLaw_of_empty (hs : ∀ i, (s.slot i).body = .free) (hr : ∀ p, s.record p = none)
    (hq : ∀ b, s.busQueue b = []) (hw : ∀ b q, (s.engine b).work ≠ .record q)
    (hd : ∀ l, s.waitingDone l = []) (hj : s.saveJob = none) : s.TransactionLaw := by
  refine ⟨⟨fun b => ?_, fun b p => ?_, fun l => ?_, ?_⟩, ⟨?_, ?_, ?_⟩, ?_, ?_⟩ <;>
    simp [hs, hr, hq, hw, hd, hj, SlotBody.inFlight?]

theorem coldStart_txLaws (s : State) (supen : Bool) (supsel rate : BitVec 2) (lines : LineLevels) :
    (s.coldStart supen supsel rate lines).EngineLaw ∧
      (s.coldStart supen supsel rate lines).TransactionLaw := by
  obtain ⟨hslot, -, -, hrecord, hdone, hqueue, hengine, -⟩ :=
    coldState_arrays s.pending s.now s.freeCount (strapSupervisor supen supsel) rate
  rw [coldStart_eq]
  constructor
  · intro b
    by_cases hb : (0 : BusIx) = b
    · subst hb
      cases lines <;> simp [hqueue, Engine.lawful, engineAfterCheck]
    · simp [State.engine_setEngine_ne _ (Ne.symm hb), hqueue, hengine, coldEngine, Engine.lawful]
  · refine transactionLaw_of_empty (by simp [hslot]) (by simp [hrecord]) (by simp [hqueue])
      (fun b q => ?_) (by simp [hdone]) rfl
    rw [State.engine_setEngine]
    split
    · nofun
    · simp [hengine, coldEngine]

theorem engineLaw_move (h : Move s t) (hs : s.EngineLaw) : t.EngineLaw := by
  cases h with
  | effect h => exact engineLaw_effect h hs
  | opening h => cases h <;> exact hs

/-- Settles O60: the engines' law is kept by every move, and the transaction unit's, with it, by every
operation a command is made of. -/
theorem transactionLawKept : Obligations.TransactionLawKept := by
  intro s t hstep he hx
  refine ⟨step_keeps (P := State.EngineLaw) (fun _ _ h => h)
    (fun s supen supsel rate lines => (coldStart_txLaws s supen supsel rate lines).1)
    (fun _ _ => engineLaw_move) hstep he, ?_⟩
  have hs := txLaw_of_transactionLaw hx True
  cases hq : s.pending with
  | nil =>
    simp only [step, hq] at hstep
    cases hstep
    exact ((quiet_idles s).txLaw hs).transactionLaw
  | cons c rest =>
    rw [step_of_pending hq] at hstep
    cases hc : isColdStart c with
    | false =>
      have hp : TxLaw True none [] { s with pending := rest } :=
        txLaw_of_transactionLaw (s := { s with pending := rest }) hx True
      exact (txLaw_exec hc hstep (fun _ b => (he b).1) hp).transactionLaw
    | true =>
      cases c with
      | coldStart supen supsel rate lines =>
        cases hstep
        exact (coldStart_txLaws _ supen supsel rate lines).2
      | _ => cases hc

end Sys2Proof.Machine

/-! The step and the commands as a whole: the step by the front of the queue (O1), what every command leaves
(O2), the laws after reset (O56), BYE (O4), and the course of a slot through any command (O17). -/

namespace Sys2Proof.Machine

open Relation (ReflTransGen)

variable {s t : State} {b : BusIx} {l : Link} {i : SlotIx}

/-! ### The step (O1) -/

theorem waitsForClock_iff {e : EngineState} :
    e.waitsForClock = true ↔ ∃ a, e = .active (.lineWait a) := by
  unfold EngineState.waitsForClock
  split <;> simp_all

/-- R89: where the clock of a bus rises, its line check goes on; where it is not waited for, nothing
happens. -/
theorem clockRises_eq (s : State) (b : BusIx) (lines : LineLevels) :
    s.clockRises b lines = s ∨ ∃ x, (s.engine b).state = .active (.lineWait x) ∧
      s.clockRises b lines =
        s.setEngine b { s.engine b with state := engineAfterCheck x (s.planFor b x) lines } := by
  unfold State.clockRises
  split
  · rename_i a ha
    exact .inr ⟨a, ha, lineCheck_eq_setEngine s b a lines⟩
  · exact .inl rfl

/-- Settles O1: the front command by the definition, the idle step by whether a clock is waited for. -/
theorem stepTakesFrontCommand : Obligations.StepTakesFrontCommand := by
  refine ⟨fun s c rest h => step_of_pending h, fun s h hno => ?_, fun s b a h ha => ?_⟩
  · have hw : ∀ b, (s.engine b).state.waitsForClock = false := fun b =>
      Bool.eq_false_iff.mpr fun hb =>
        let ⟨a, ha⟩ := waitsForClock_iff.mp hb
        hno b a ha
    simp [step, h, State.idles, hw, State.tick]
  · have hw : (s.engine b).state.waitsForClock = true := waitsForClock_iff.mpr ⟨a, ha⟩
    have hor : ((s.engine 0).state.waitsForClock || (s.engine 1).state.waitsForClock) = true := by
      fin_cases b
      · exact Bool.or_eq_true_iff.mpr (.inl hw)
      · exact Bool.or_eq_true_iff.mpr (.inr hw)
    have hrise : ∀ c lines, lines ≠ .clockLow → ∀ t,
        t = State.clockRises { s with freeCount := s.freeCount + 1 } c lines →
        t = { s with freeCount := s.freeCount + 1, now := s.now + 1 } ∨
        t = { s with freeCount := s.freeCount + 1 } ∨
        ∃ c x lines, (s.engine c).state = .active (.lineWait x) ∧ lines ≠ .clockLow ∧
          t = State.setEngine { s with freeCount := s.freeCount + 1 } c
            { s.engine c with state := engineAfterCheck x (s.planFor c x) lines } := by
      rintro c lines hl t rfl
      rcases clockRises_eq { s with freeCount := s.freeCount + 1 } c lines with h' | ⟨x, hx, h'⟩
      · exact .inr (.inl h')
      · exact .inr (.inr ⟨c, x, lines, hx, hl, h'⟩)
    refine ⟨s.idles, by simp only [step, h], ?_⟩
    simp only [State.idles, hor, if_pos]
    split
    · exact hrise 0 .bothHigh nofun _ rfl
    · exact hrise 0 .dataLow nofun _ rfl
    · exact hrise 1 .bothHigh nofun _ rfl
    · exact hrise 1 .dataLow nofun _ rfl
    · exact .inl rfl

/-! ### What every command leaves (O2) -/

/-- The queue of commands and what the straps gave are kept, and the time does not go back. -/
structure Onward (s t : State) : Prop where
  pending : t.pending = s.pending
  now : s.now ≤ t.now
  supervisor : t.supervisor = s.supervisor
  rate : t.rate = s.rate

theorem Onward.trans {u : State} (h : Onward s t) (k : Onward t u) : Onward s u :=
  ⟨k.pending.trans h.pending, h.now.trans k.now, k.supervisor.trans h.supervisor,
    k.rate.trans h.rate⟩

theorem onward_effect (h : Effect s t) : Onward s t := by
  cases h with
  | pool _ _ _ _ _ _ _ hnow => exact ⟨rfl, hnow, rfl, rfl⟩
  | offered l n => exact ⟨by simp, by simp, by simp, by simp⟩
  | _ => exact ⟨rfl, Nat.le_refl _, rfl, rfl⟩

theorem onward_move (h : Move s t) : Onward s t := by
  cases h with
  | effect h => exact onward_effect h
  | opening h => cases h <;> exact ⟨rfl, Nat.le_refl _, rfl, rfl⟩

/-- Settles O2: what every move leaves, and what COLD_START is given. -/
theorem everyCommandCompletes : Obligations.EveryCommandCompletes := by
  intro c s
  cases hc : isColdStart c with
  | false =>
    obtain ⟨t, ht, hm⟩ := moves_exec c hc s
    have h : Onward s t := hm.keep (P := Onward s) (fun _ _ hm h => h.trans (onward_move hm))
      ⟨rfl, Nat.le_refl _, rfl, rfl⟩
    exact ⟨t, ht, h.pending, h.now, fun _ => ⟨h.supervisor, h.rate⟩⟩
  | true =>
    cases c with
    | coldStart supen supsel rate lines =>
      refine ⟨_, rfl, ?_⟩
      rw [coldStart_eq]
      exact ⟨rfl, Nat.le_refl _, nofun⟩
    | _ => cases hc

/-! ### The laws after reset (O56) -/

/-- Settles O56: every table is empty at reset. -/
theorem lawsHoldAtReset : Obligations.LawsHoldAtReset := by
  obtain ⟨hslot, hentry, hrights, hrecord, hdone, hqueue, hengine, hsession, hnotice, hlink⟩ :
    (∀ i, State.reset.slot i = ⟨1, .free⟩) ∧ (∀ e, State.reset.entry e = ⟨.absent, []⟩) ∧
    (∀ l, State.reset.rightsOf l = defaultRights none l) ∧ (∀ p, State.reset.record p = none) ∧
    (∀ l, State.reset.waitingDone l = []) ∧ (∀ b, State.reset.busQueue b = []) ∧
    (∀ b, State.reset.engine b = coldEngine) ∧ (∀ l, State.reset.session l = .closed) ∧
    (∀ l, State.reset.notice l = ⟨[], false, false⟩) ∧ ∀ l, State.reset.link l = coldLink 0 :=
    coldState_arrays [] 0 0 none 0
  have hfree : ∀ i, (State.reset.slot i).body = .free := fun i => congrArg Slot.body (hslot i)
  refine ⟨fun i j e m n _ hi => ?_, fun i j k e hi => ?_, fun i => ?_,
    ⟨fun x => queueLaw_of_empty (hentry x) (fun k hk => ?_) fun _ k hk => ?_, fun h => absurd rfl h,
      fun _ => ⟨rfl, rfl, hfree⟩⟩, fun k => ?_, fun k _ => ⟨fun i => ?_, fun p r hr => ?_, hdone k⟩,
    catalogueLaw_of_empty (fun k => congrArg Entry.body (hentry k)) hrights, fun k => ?_,
    fun b => ?_, transactionLaw_of_empty hfree hrecord hqueue (fun b q => ?_) hdone rfl⟩
  · rw [hfree] at hi; cases hi
  · rw [hfree] at hi; cases hi
  · rw [hslot]; decide
  · rw [hfree] at hk; cases hk
  · rw [hfree] at hk; cases hk
  · rw [hnotice]; exact lawful_empty _
  · rw [hfree]; nofun
  · exact absurd ((hrecord p).symm.trans hr) nofun
  · rw [hlink, hsession]
    simp [LinkUnit.Lawful, coldLink, LinkUnit.placesTaken, rejectLawful, Framer.lawful, Session.isOpen]
  · rw [hengine, hqueue]
    simp [Engine.lawful, coldEngine]
  · rw [hengine]; nofun

/-! ### BYE (O4) -/

theorem exec_bye {f : Frame} {rest : List Frame} (ha : s.Admits l .bye f rest) :
    exec (.bye l) s = .next (serveBye l f (s.taking l rest)) :=
  congrArg _ (serve_admits ha serveBye)

/-- Settles O4: the teardown leaves the link units, so the answer stays in the outbound queue. -/
theorem byeEndsSession : Obligations.ByeEndsSession := by
  intro s l f rest ha
  obtain ⟨hlink, hclosed, -⟩ := teardown_frame ((s.taking l rest).answer l f.tag .ok []) l
  refine ⟨_, exec_bye ha, rfl, hclosed, ?_⟩
  unfold serveBye
  rw [hlink]
  simp [State.answer, LinkUnit.taken]

/-! ### The course of a slot (O17) -/

/-- A request is a chain of effects if its owner's part is one. -/
theorem effects_request (s : State) (l : Link) (r : Request) (owner : Link → Frame → State → State)
    (h : ∀ s f, (s.link l).reserved = true → s.part = .ready →
      ((s.session l).isOpen = true ∨ r = .hello) → Effects s (owner l f s)) :
    Effects s (s.serve l r owner) := by
  unfold State.serve
  split
  · exact .refl
  · rename_i f s' ht
    obtain ⟨-, rest, ho, rfl⟩ := takeFrame_eq ht
    have hres : ((s.taking l rest).link l).reserved = true := by simp [LinkUnit.taken]
    refine (effects_taking s l ho).trans ?_
    split
    · exact effects_answer _ l _ _ _ hres
    · rename_i hg
      obtain ⟨hp, -, hs, -⟩ := genericRefusal_none hg
      exact h _ f hres hp hs

/-- Every command but COLD_START and OPEN is a chain of effects. -/
theorem effects_exec {c : Instr} (hc : isColdStart c = false) (ho : ∀ l, c ≠ .openLease l)
    (h : exec c s = .next t) : Effects s t := by
  cases c with
  | coldStart => cases hc
  | openLease l => exact absurd rfl (ho l)
  | hello l => cases h; exact effects_request s l _ _ fun s f h _ _ => effects_serveHello s l f h
  | bye l => cases h; exact effects_request s l _ _ fun s f h _ _ => effects_serveBye s l f h
  | renew l => cases h; exact effects_request s l _ _ fun s f h _ _ => effects_serveRenew s l f h
  | release l => cases h; exact effects_request s l _ _ fun s f h _ _ => effects_serveRelease s l f h
  | changeMode l =>
    cases h; exact effects_request s l _ _ fun s f h _ _ => effects_serveChangeMode s l f h
  | read l =>
    cases h
    exact effects_request s l _ _ fun s f h _ ho =>
      effects_serveTransaction .read s l f _ _ h (ho.resolve_right nofun)
  | write l =>
    cases h
    exact effects_request s l _ _ fun s f h _ ho =>
      effects_serveTransaction .write s l f _ _ h (ho.resolve_right nofun)
  | collect l =>
    cases h
    exact effects_request s l _ _ fun s f h _ ho =>
      effects_serveCollect s l f h (ho.resolve_right nofun)
  | queryTarget l =>
    cases h
    refine effects_request s l _ _ fun s f h _ _ => ?_
    unfold serveQueryTarget
    split <;> exact effects_answer s l _ _ _ h
  | querySlot l =>
    cases h
    refine effects_request s l _ _ fun s f h _ _ => ?_
    unfold serveQuerySlot
    split <;> exact effects_answer s l _ _ _ h
  | queryBus l =>
    cases h
    refine effects_request s l _ _ fun s f h _ _ => ?_
    unfold serveQueryBus
    split <;> exact effects_answer s l _ _ _ h
  | queryLink l =>
    cases h
    refine effects_request s l _ _ fun s f h _ _ => ?_
    unfold serveQueryLink
    split <;> exact effects_answer s l _ _ _ h
  | queryStart l => cases h; exact effects_request s l _ _ fun s f h _ _ => effects_answer s l _ _ _ h
  | setTarget l =>
    cases h; exact effects_request s l _ _ fun s f h _ _ => effects_serveSetTarget s l f h
  | dropTarget l =>
    cases h; exact effects_request s l _ _ fun s f h _ _ => effects_serveDropTarget s l f h
  | setRights l =>
    cases h; exact effects_request s l _ _ fun s f h _ _ => effects_serveSetRights s l f h
  | revoke l => cases h; exact effects_request s l _ _ fun s f h _ _ => effects_serveRevoke s l f h
  | busRestore l =>
    cases h; exact effects_request s l _ _ fun s f h _ _ => effects_serveBusRestore s l f h
  | saveCatalogue l =>
    cases h
    exact effects_request s l _ _ fun s f h _ ho =>
      effects_serveSaveCatalogue s l f h (ho.resolve_right nofun)
  | restart l =>
    cases h; exact effects_request s l _ _ fun s f h hp _ => effects_serveRestart s l f h hp
  | unlistedCodeRequest l => cases h; exact effects_serveUnlisted s l
  | termExpiry i => cases h; exact effects_termExpires s i
  | lapseWarning i => cases h; exact effects_warningFallsDue s i
  | waitExpiry i => cases h; exact effects_waitExpires s i
  | upgradeWaitExpiry i => cases h; exact effects_upgradeExpires s i
  | graceExpiry l => cases h; exact effects_graceExpires s l
  | restartTeardown l lines => cases h; exact effects_restartTears s l lines
  | lineBreak l => cases h; exact effects_breakFound s l
  | linkUp l => cases h; exact effects_idleFound s l
  | characterReceived l c => cases h; exact effects_charReceived s l c
  | badCharacter l => cases h; exact effects_badCharacter s l
  | gapTimerExpiry l => cases h; exact effects_gapExpires s l
  | transmitFrameStart l holdin => cases h; exact effects_transmitStarts s l holdin
  | frameSent l => cases h; exact effects_frameSent s l
  | takeRecord b lines => cases h; exact effects_takeWork s b lines
  | readOperationEnd b readings lines => cases h; exact effects_readOperationEnds s b readings lines
  | writeSegmentEnd b readings lines => cases h; exact effects_writeSegmentEnds s b readings lines
  | busyPollEnd b readings lines => cases h; exact effects_busyPollEnds s b readings lines
  | addressRetryWaitExpiry b lines => cases h; exact effects_retryWaitExpires s b lines
  | busyPollWaitExpiry b lines => cases h; exact effects_pollWaitExpires s b lines
  | clockStretchFault b point => cases h; exact effects_stretchFault s b point
  | lineCheckClockStuck b lines => cases h; exact effects_clockStuck s b lines
  | recoveryEnd b met lines => cases h; exact effects_recoveryEnds s b met lines

/-- R25, R2: how a slot may stand after a command, by how it stood before. -/
structure SlotCourse (a b : Slot) : Prop where
  ending : ∀ e, a.body = .ending e →
    b.body = .ending e ∨ b.body = .ending { e with owner := none } ∨ b.body = .free
  generation : b.generation =
    if a.body = .free ∧ b.body ≠ .free then nextGeneration a.generation else a.generation

/-- What a chain of effects leaves of a slot: its generation; a FREE slot stays so, and an ENDING one is
detached or freed. -/
structure SlotEnds (a b : Slot) : Prop where
  ending : ∀ e, a.body = .ending e →
    b.body = .ending e ∨ b.body = .ending { e with owner := none } ∨ b.body = .free
  free : a.body = .free → b.body = .free
  generation : b.generation = a.generation

theorem SlotEnds.refl (a : Slot) : SlotEnds a a := ⟨fun _ => .inl, id, rfl⟩

theorem SlotEnds.trans {a b c : Slot} (h : SlotEnds a b) (k : SlotEnds b c) : SlotEnds a c where
  ending := fun e he => by
    rcases h.ending e he with hb | hb | hb
    · exact k.ending e hb
    · exact .inr ((k.ending _ hb).elim .inl id)
    · exact .inr (.inr (k.free hb))
  free := k.free ∘ h.free
  generation := k.generation.trans h.generation

theorem SlotEnds.course {a b : Slot} (h : SlotEnds a b) : SlotCourse a b where
  ending := h.ending
  generation := by
    rw [if_neg fun ⟨ha, hb⟩ => hb (h.free ha)]
    exact h.generation

theorem slotEnds_step {x : SlotBody} (h : SlotStep s i x) :
    SlotEnds (s.slot i) ⟨(s.slot i).generation, x⟩ := by
  refine ⟨fun e he => ?_, fun hf => absurd hf h.not_free, rfl⟩
  cases h with
  | vacated | freed => exact .inr (.inr rfl)
  | detached e' hb => cases he.symm.trans hb; exact .inr (.inl rfl)
  | ended _ _ _ hb | kept _ _ hb | downgraded _ hb | upgraded _ _ hb | granted _ hb =>
    cases he.symm.trans hb

theorem slotEnds_effect (h : Effect s t) (k : SlotIx) : SlotEnds (s.slot k) (t.slot k) := by
  rcases effect_slots h with heq | ⟨i, x, hstep, hw⟩
  · rw [heq]
    exact .refl _
  · rw [hw k]
    split
    · rename_i hik
      exact hik ▸ slotEnds_step hstep
    · exact .refl _

theorem slotEnds_effects (h : Effects s t) (k : SlotIx) : SlotEnds (s.slot k) (t.slot k) :=
  h.keep (P := fun u => SlotEnds (s.slot k) (u.slot k))
    (fun _ _ he hs => hs.trans (slotEnds_effect he k)) (.refl _)

/-- R9, R10: OPEN leaves the slot table, or takes one FREE slot out of FREE. -/
theorem serveOpen_slots (s : State) (l : Link) (f : Frame) :
    (∀ k, (serveOpen l f s).slot k = s.slot k) ∨ ∃ i x, (s.slot i).body = .free ∧
      (x.stateName = .held ∨ x.stateName = .waiting) ∧
      KeepsAll (s.leaveFree i x) (serveOpen l f s) := by
  unfold serveOpen
  split
  · exact .inl (by simp)
  · unfold State.admitOpen
    split
    · exact .inl (by simp)
    · exact .inl (by simp)
    · split
      · exact .inl (by simp)
      · split
        · exact .inl (by simp)
        · split
          · exact .inl (by simp)
          · split
            · exact .inl (by simp)
            · rename_i i hi
              split
              · exact .inr ⟨i, .held _, lowestFree_free hi, .inl rfl,
                  (keepsAll_warnIfDue _ i).trans (.of_eq fun _ => rfl)⟩
              · unfold State.openContended
                split
                · exact .inl (by simp)
                · split
                  · exact .inl (by simp)
                  · exact .inr ⟨i, .waiting _, lowestFree_free hi, .inr rfl, .of_eq fun _ => rfl⟩

theorem slotCourse_open {i : SlotIx} {x : SlotBody} (hf : (s.slot i).body = .free)
    (hx : x.stateName = .held ∨ x.stateName = .waiting) (hk : KeepsAll (s.leaveFree i x) t)
    (k : SlotIx) : SlotCourse (s.slot k) (t.slot k) := by
  have hkk := hk k
  simp only [State.leaveFree, State.slot_setSlot] at hkk
  split at hkk
  · rename_i hik
    subst hik
    refine ⟨fun e he => (by rw [hf] at he; cases he), ?_⟩
    have hne : (t.slot i).body ≠ .free := fun hfree => by
      have := hkk.unsettled (.inr (by rw [hfree]; rfl))
      rw [this] at hfree
      simp only at hfree
      subst hfree
      rcases hx with hx | hx <;> cases hx
    rw [if_pos ⟨hf, hne⟩]
    exact hkk.generation
  · refine ⟨fun e he => .inl ?_, ?_⟩
    · rw [hkk.settled (.inl (by rw [he]; rfl))]
      exact he
    · rw [if_neg]
      · exact hkk.generation
      · rintro ⟨hfree, hne⟩
        rw [hkk.settled (.inr (by rw [hfree]; rfl))] at hne
        exact hne hfree

theorem slotCourse_exec {c : Instr} (hc : isColdStart c = false) (h : exec c s = .next t)
    (k : SlotIx) : SlotCourse (s.slot k) (t.slot k) := by
  cases c with
  | openLease l =>
    cases h
    unfold State.serve
    split
    · exact (SlotEnds.refl _).course
    · rename_i f s' htake
      obtain ⟨-, rest, -, rfl⟩ := takeFrame_eq htake
      split
      · simpa using (SlotEnds.refl (s.slot k)).course
      · rcases serveOpen_slots (s.taking l rest) l f with heq | ⟨i, x, hf, hx, hk⟩
        · rw [heq]
          simpa using (SlotEnds.refl (s.slot k)).course
        · simpa using slotCourse_open hf hx hk k
  | _ => exact (slotEnds_effects (effects_exec hc nofun h) k).course

/-- Settles O17: the course of the slot through effects and through OPEN; an ENDING slot that becomes FREE
has no record in flight then, so the record that was in flight is gone or DONE. -/
theorem slotsKeepTheirCourse : Obligations.SlotsKeepTheirCourse := by
  intro c s t i hc h
  have hcourse := slotCourse_exec hc h i
  refine ⟨hcourse.ending, fun hlaw e he hfree => ?_, hcourse.generation⟩
  obtain ⟨p, r, hp, hr, hact, -⟩ := hlaw.2.1.2.2 i e he
  obtain ⟨r', hr', -, hh, -⟩ := hlaw.2.1.1 i p (by rw [he]; exact hp)
  cases hr.symm.trans hr'
  refine ⟨p, r, hp, hr, hact, hh, fun x hx hxh => ?_⟩
  have ht := txLaw_exec (W := False) hc h False.elim (txLaw_of_transactionLaw hlaw False)
  by_contra hdone
  obtain ⟨hin, -⟩ := ht.flight.2.1 p x _ hx hdone (hxh.trans hh)
  rw [hfree] at hin
  cases hin

end Sys2Proof.Machine

/-! Leases (Section 1): OPEN that waits (R10) or is refused (R8), RENEW (R13), CHANGE-MODE to EXCLUSIVE
(R20), the ways a lease ends that is not released (R14, R21, R59) with REVOKE and TERM_EXPIRY, and the
other timers (R12, R43, R44, R115). -/

namespace Sys2Proof.Machine

variable {s t : State} {l : Link} {f : Frame} {rest : List Frame} {i : SlotIx} {p : PoolIx}
  {r : Record} {h : HeldSlot}

/-! ### OPEN that waits or is refused (R7, R8, R10) -/

section Open

variable {a : OpenArgs} {fields : TargetFields}

theorem lowestFree_eq_none : s.lowestFree = none ↔ ∀ i, (s.slot i).body ≠ .free := by
  simp [State.lowestFree, slotIndices]

theorem openArgs_eq_none (h : 31 < (byteAt f.body 0).toNat ∨ 1 < (byteAt f.body 1).toNat ∨
    60000 < wordAt f.body 2 ∨ 6000 < wordAt f.body 4) : openArgs f.body = none := by
  unfold openArgs
  rcases h with htarget | hmode | hterm | hwait
  · simp [entryOf_eq_none htarget]
  · simp [modeOf_eq_none hmode]
  · simp only [hterm, if_true]
    split <;> rfl
  · simp only [hwait, if_true, ite_self]
    split <;> rfl

theorem modeOf_code (m : Mode) : modeOf m.code = some m := by
  cases m <;> rfl

theorem openArgs_eq_some (ht : a.target.val = (byteAt f.body 0).toNat)
    (hm : byteAt f.body 1 = a.mode.code) (hterm : wordAt f.body 2 = a.term)
    (hwait : wordAt f.body 4 = a.wait) (hterm' : a.term ≤ 60000) (hwait' : a.wait ≤ 6000) :
    openArgs f.body = some a := by
  simp [openArgs, entryOf_eq_some ht, hm, modeOf_code, hterm, hwait, Nat.not_lt.mpr hterm',
    Nat.not_lt.mpr hwait']

/-- R8, R10: the checks of OPEN are those of `State.openRefusal`, in its order. -/
theorem admitOpen_refused {tag : Byte} {st : Status} (h : s.openRefusal l a = some st) :
    s.admitOpen l tag a = s.answer l tag st [] := by
  unfold State.openRefusal at h
  unfold State.admitOpen
  cases ht : (s.entry a.target).body with
  | absent | retiring => simp only [ht, Option.some.injEq] at h; rw [h]
  | present fields =>
    simp only [ht] at h ⊢
    split at h
    · rename_i hperm
      cases h
      rw [hperm]
      rfl
    rename_i hperm
    rw [if_neg (by simpa using hperm)]
    split at h
    · rename_i hown
      cases h
      rw [if_pos ((ownsOn_iff s l _).mpr hown)]
    rename_i hown
    rw [if_neg (mt (ownsOn_iff s l _).mp hown)]
    split at h
    · rename_i hquota
      cases h
      rw [if_pos hquota]
    rename_i hquota
    rw [if_neg hquota]
    split at h
    · rename_i hfull
      cases h
      rw [lowestFree_eq_none.mpr hfull]
    rename_i hfull
    obtain ⟨i, hi⟩ := Option.ne_none_iff_exists'.mp (mt lowestFree_eq_none.mp hfull)
    simp only [hi]
    split at h
    · cases h
    rename_i hgrant
    rw [if_neg (mt grantableAtOnce_iff.mp hgrant), State.openContended]
    split at h
    · rename_i hwait
      cases h
      rw [if_pos hwait]
    rename_i hwait
    rw [if_neg hwait]
    split at h
    · rename_i hqlim
      cases h
      rw [if_pos hqlim]
    · cases h

/-- R10: an OPEN that no check refuses, and that is not granted at once, has a wait limit and room in
the queue. -/
theorem openRefusal_none_waits (ht : (s.entry a.target).body = .present fields)
    (h : s.openRefusal l a = none)
    (hng : ¬ ((s.entry a.target).waitQueue = [] ∧ s.compatible a.target a.mode = true)) :
    a.wait ≠ 0 ∧ s.waitingCount a.target < fields.qlim := by
  simp only [State.openRefusal, ht, if_neg hng] at h
  iterate 4
    split at h
    · cases h
  split at h
  · cases h
  rename_i hwait
  split at h
  · cases h
  rename_i hq
  exact ⟨hwait, Nat.lt_of_not_le hq⟩

theorem serveOpen_waits (ho : openArgs f.body = some a)
    (ht : (s.entry a.target).body = .present fields) (hr : s.openRefusal l a = none)
    (hng : ¬ ((s.entry a.target).waitQueue = [] ∧ s.compatible a.target a.mode = true))
    (hi : s.lowestFree = some i) :
    serveOpen l f s = s.openWaiting l f.tag a i (requestedTerm fields a.term) := by
  obtain ⟨hperm, hown, hquota⟩ := openRefusal_none_passes ht hr
  obtain ⟨hwait, hq⟩ := openRefusal_none_waits ht hr hng
  simp only [serveOpen, ho, State.admitOpen, ht, hperm, hown, Nat.not_le.mpr hquota, hi,
    mt grantableAtOnce_iff.mp hng, State.openContended, hwait, Nat.not_le.mpr hq, if_false,
    Bool.not_true, Bool.false_eq_true]

end Open

/-- Settles O7: the checks pass but for the immediate-grant test, so the slot waits at the tail. -/
theorem openWaits : Obligations.OpenWaits := by
  intro s l f rest a fields i ha ho ht hr hng hf hlow term g
  have hserve : serveOpen l f (s.taking l rest) = (s.taking l rest).openWaiting l f.tag a i term :=
    serveOpen_waits ho ht hr hng (lowestFree_eq_some hf hlow)
  rw [exec_openLease ha, hserve]
  simp only [State.openWaiting, State.leaveFree, State.slot_setSlot_self, State.setWaitQueue_eq,
    State.setSlot_frame, State.taking_frame]
  rfl

/-- Settles O8: fields out of range are no arguments of OPEN, and else the first check that fails
answers. -/
theorem openRefused : Obligations.OpenRefused := by
  intro s l f rest ha
  rw [exec_openLease ha]
  refine ⟨fun h => congrArg _ ?_, fun a st ht hm hterm hwait hterm' hwait' hr => congrArg _ ?_⟩
  · rw [serveOpen, openArgs_eq_none h]
  · rw [serveOpen, openArgs_eq_some ht hm hterm hwait hterm' hwait']
    exact admitOpen_refused (s := s.taking l rest) hr

/-! ### RENEW (R13, R12) -/

theorem serveRenew_held {fields : TargetFields} (hu : wordAt f.body 3 ≤ 60000)
    (hh : s.NamesHeld l f.body i h) (hf : (s.entry h.target).body.fields? = some fields) :
    serveRenew l f s =
      s.renewHeld l f.tag i h (wordAt f.body 3) ∧
    s.requestedTermFor h.target (wordAt f.body 3) = requestedTerm fields (wordAt f.body 3) ∧
    s.warnMs h.target = fields.warnTime * 10 := by
  simp [serveRenew, Nat.not_lt.mpr hu, checkHandle_eq_held hh, State.requestedTermFor, State.warnMs, hf,
    Config.unitMs]

/-- R12, R13: a term that begins now has its warning due now where it is not above the warn time. -/
theorem warnIfDue_renewed (s : State) (i : SlotIx) (h : HeldSlot) (term : Nat) {due : Bool}
    (hdue : due = decide (0 < s.warnMs h.target ∧ term ≤ s.warnMs h.target)) :
    (s.setBody i (.held { h with
        requestedTerm := term, termDeadline := s.now + term, lapseWarned := false })).warnIfDue i =
      let v := s.setBody i (.held { h with
        requestedTerm := term, termDeadline := s.now + term, lapseWarned := due })
      if due then v.offerNotice h.owner ⟨.handle i.val (s.slot i).generation, .lapsing (term / 10)⟩
      else v := by
  rw [warnIfDue_of_held (h := { h with
    requestedTerm := term, termDeadline := s.now + term, lapseWarned := false })
    (by simp [State.setBody_eq]) rfl]
  by_cases hd : 0 < s.warnMs h.target ∧ term ≤ s.warnMs h.target <;>
    simp [hdue, hd, State.setBody_eq, State.slotSubject]

/-- Settles O10: the term restarts, and the warning is given where it is due. -/
theorem renewHeld : Obligations.RenewHeld := by
  intro s l f rest ha
  rw [exec_renew ha]
  refine ⟨fun hu => congrArg _ (if_pos hu), ?_⟩
  intro i h fields hu hh hf term due v
  refine congrArg _ ?_
  obtain ⟨hserve, hterm, hwarn⟩ := serveRenew_held (s := s.taking l rest) hu hh hf
  have hdue : due = decide (0 < (s.taking l rest).warnMs h.target ∧
      term ≤ (s.taking l rest).warnMs h.target) := by
    rw [hwarn]
    simp [due]
  obtain ⟨-, -, rfl⟩ := hh
  rw [hserve, State.renewHeld, hterm]
  exact congrArg (State.answer · h.owner f.tag .ok (wordBytes (term / 10)))
    (warnIfDue_renewed (s.taking h.owner rest) i h term hdue)

/-! ### CHANGE-MODE to EXCLUSIVE (R20) -/

theorem otherUpgrade_iff {e : EntryIx} : s.otherUpgrade e i = true ↔
    ∃ j k, j ≠ i ∧ (s.slot j).body = .held k ∧ k.target = e ∧ k.upgrade ≠ none := by
  simp only [State.otherUpgrade, slotIndices, List.any_eq_true, List.mem_finRange, true_and]
  refine exists_congr fun j => ?_
  cases hb : (s.slot j).body <;> simp [Option.isSome_iff_ne_none, and_assoc]

theorem serveChangeMode_exclusive (hmode : byteAt f.body 3 = 1) (hwait : wordAt f.body 4 ≤ 6000)
    (hc : s.checkHandle l f.body = .held i h) (hf : h.inFlight = none) :
    serveChangeMode l f s = (s.changeToExclusive l i h (wordAt f.body 4)).2.answer l f.tag
      (s.changeToExclusive l i h (wordAt f.body 4)).1 [] := by
  simp [serveChangeMode, modeOf, hmode, Nat.not_lt.mpr hwait, hc, hf]

/-- Settles O13: the checks of the change to EXCLUSIVE, each with its status and state. -/
theorem changeModeToExclusive : Obligations.ChangeModeToExclusive := by
  intro s l f rest i h fields ha hmode hwait hh hin hf u
  refine ⟨otherUpgrade_iff, ?_⟩
  rw [exec_changeMode ha, serveChangeMode_exclusive (s := u) hmode hwait (checkHandle_eq_held hh) hin]
  refine congrArg _ ?_
  have hcls : (u.entry h.target).body.fields? = some fields := hf
  have honly : u.onlyHolder h.target i = s.onlyHolder h.target i := rfl
  have hother : u.otherUpgrade h.target i = s.otherUpgrade h.target i := rfl
  have hrights : u.rightsOf l = s.rightsOf l := rfl
  simp only [State.changeToExclusive, hcls, State.permits, honly, hother, hrights]
  by_cases hperm : (s.rightsOf l).exclusiveMask.getLsbD fields.cls = false
  · simp [hperm]
  by_cases hm : h.mode = .exclusive
  · simp [hperm, hm]
  by_cases ho : s.onlyHolder h.target i = true
  · simp [hperm, hm, ho]
  by_cases hup : s.otherUpgrade h.target i = true
  · simp [hperm, hm, ho, hup]
  by_cases hpend : h.upgrade = none
  · by_cases hw : wordAt f.body 4 = 0
    · simp [hperm, hm, ho, hup, hpend, hw]
    · simp only [hperm, hm, ho, hup, hpend, hw, Bool.not_true, if_false,
        Option.isSome_none, Bool.false_eq_true, ne_eq, not_true_eq_false]
      rfl
  · simp [hperm, hm, ho, hup, hpend, Option.isSome_iff_ne_none.mpr hpend]

/-! ### A lease that ends (R14, R21, R59) -/

theorem flight_queued (hr : s.record p = some r) (hs : r.state = .queued) :
    s.flight (some p) = .queued p := by
  simp [State.flight, hr, hs]

theorem flight_active (hr : s.record p = some r) (hs : r.state = .active) :
    s.flight (some p) = .active p := by
  simp [State.flight, hr, hs]

theorem withdraw_eq (hr : s.record p = some r) (st : Status) :
    s.withdraw p st = (s.leaveBusQueue r.bus p).complete p st 0 := by
  simp only [State.withdraw, hr]

theorem becomeEnding_eq (hf : h.inFlight = some p) (hr : s.record p = some r) (o : Option Link)
    (c : EndCause) : s.becomeEnding i h p o c =
      ((s.setBody i (.ending ⟨o, h.target, h.mode, some p, c⟩)).leaveQueue h.target i).setRecord p
        (some { r with stopRequested := true }) := by
  have hr' : ((s.setBody i (.ending ⟨o, h.target, h.mode, some p, c⟩)).leaveQueue h.target i).record
      p = some r := hr
  rw [State.becomeEnding, hf, State.requestStop, hr']

/-- Settles O14: each case of the transaction in flight. -/
theorem leaseEndsByFlight : Obligations.LeaseEndsByFlight := by
  intro s i h e subject q
  refine ⟨fun hf => ?_, ?_, fun p r hf hr hs => ?_⟩
  · simp only [State.endLease, hf]
    rfl
  · intro p r hf hr hs v
    simp only [State.endLease, hf, flight_queued hr hs, withdraw_eq hr]
    rfl
  · simp only [State.endLease, hf, flight_active hr hs, becomeEnding_eq hf hr]
    rfl

/-- R40: the grant pass after the end of a lease, by its transaction in flight. -/
theorem endLeaseAndPass_none (hf : h.inFlight = none) (e : LeaseEnd) :
    s.endLeaseAndPass i h e = (s.endLease i h e).grantPass h.target := by
  simp [State.endLeaseAndPass, State.endRunsPass, State.grantPassIf, hf, State.flight]

theorem endLeaseAndPass_queued (hf : h.inFlight = some p) (hr : s.record p = some r)
    (hs : r.state = .queued) (e : LeaseEnd) :
    s.endLeaseAndPass i h e = (s.endLease i h e).grantPass h.target := by
  simp [State.endLeaseAndPass, State.endRunsPass, State.grantPassIf, hf, flight_queued hr hs]

theorem endLeaseAndPass_active (hf : h.inFlight = some p) (hr : s.record p = some r)
    (hs : r.state = .active) (e : LeaseEnd) :
    s.endLeaseAndPass i h e = if h.upgrade = none then s.endLease i h e
      else (s.endLease i h e).grantPass h.target := by
  cases hu : h.upgrade <;>
    simp [State.endLeaseAndPass, State.endRunsPass, State.grantPassIf, hf, flight_active hr hs, hu]

/-- Settles O16: the lease ends at its deadline, and the pass runs as for the end of any lease. -/
theorem termExpires : Obligations.TermExpires := by
  intro s i h hb v
  have hexec : exec (.termExpiry i) s =
      .next ((s.advanceTo h.termDeadline).endLeaseAndPass i h lapseEnd) := by
    simp only [exec, execTermExpiry, State.termExpires, hb]
  rw [hexec]
  refine ⟨fun hf => congrArg _ (endLeaseAndPass_none hf _), fun p r hf hr hs => congrArg _ ?_,
    fun p r hf hr hs => congrArg _ ?_⟩
  · exact endLeaseAndPass_queued (s := s.advanceTo h.termDeadline) hf hr hs _
  · exact endLeaseAndPass_active (s := s.advanceTo h.termDeadline) hf hr hs _

/-! ### REVOKE (R21) -/

theorem exec_revoke (ha : s.Admits l .revoke f rest) :
    exec (.revoke l) s = .next (serveRevoke l f (s.taking l rest)) :=
  congrArg _ (serve_admits ha serveRevoke)

theorem slotOf_eq_none {b : Byte} (h : 47 < b.toNat) : slotOf b = none :=
  dif_neg (by omega)

/-- Where no completion has come to the link, the answer has no place to choose. -/
theorem answerAmong_eq_answer {before : Nat} (h : (s.link l).outbound.length ≤ before) (tag : Byte)
    (st : Status) (body : List Byte) : s.answerAmong before l tag st body = s.answer l tag st body :=
  if_pos h

/-- The place of an answer lies behind the frames that were there before the event. -/
theorem answerAmong_eq {before : Nat} (h : before ≤ (s.link l).outbound.length) (tag : Byte)
    (st : Status) (body : List Byte) : ∃ k n, before ≤ k ∧ k ≤ (s.link l).outbound.length ∧
      s.answerAmong before l tag st body = (s.setLink l { s.link l with
        outbound := (s.link l).outbound.take k ++ [⟨tag, st, body⟩] ++ (s.link l).outbound.drop k
        reserved := false }).setFreeCount n := by
  by_cases hle : (s.link l).outbound.length ≤ before
  · refine ⟨(s.link l).outbound.length, s.freeCount, h, Nat.le_refl _, ?_⟩
    rw [answerAmong_eq_answer hle, List.take_length, List.drop_length, List.append_nil]
    rfl
  · have hmod : Config.responsePlace s.freeCount % ((s.link l).outbound.length - before + 1) <
        (s.link l).outbound.length - before + 1 := Nat.mod_lt _ (Nat.succ_pos _)
    refine ⟨before + Config.responsePlace s.freeCount % ((s.link l).outbound.length - before + 1),
      s.freeCount + 1, Nat.le_add_right _ _, by omega, ?_⟩
    rw [State.answerAmong, if_neg hle]

/-- The end of a lease with nothing QUEUED completes no record, and so touches no link. -/
theorem endLease_link (hf : ∀ p, s.flight h.inFlight ≠ .queued p) (e : LeaseEnd) (k : Link) :
    (s.endLease i h e).link k = s.link k := by
  unfold State.endLease
  dsimp only
  split
  · simp only [State.offerNotice_frame]
    rfl
  · rename_i p hp
    exact absurd hp (hf p)
  · simp only [State.offerNotice_frame, State.becomeEnding, State.requestStop_frame]
    rfl

/-- Settles O15: the index, the generation and the state of the slot, and for a HELD one what is in
flight. -/
theorem revokeByState : Obligations.RevokeByState := by
  intro s l f rest ha u refused
  refine ⟨fun hi => ?_, fun i hi => ?_⟩
  · refine (exec_revoke ha).trans (congrArg _ ?_)
    rw [serveRevoke, slotOf_eq_none hi]
  have hserve : exec (.revoke l) s = .next (u.revokeSlot l f.tag i (wordAt f.body 1)) := by
    rw [exec_revoke ha, serveRevoke, slotOf_eq_some_iff.mpr hi]
  have hslot : u.slot i = s.slot i := rfl
  refine ⟨fun h => hserve.trans (congrArg _ ?_), fun hg => ?_,
    fun v before st body hb => answerAmong_eq hb _ st body⟩
  · unfold State.revokeSlot
    rw [hslot]
    rcases h with hg | hfree
    · rw [if_neg hg]
    · rw [hfree]
      exact ite_self _
  refine ⟨fun e hb => hserve.trans (congrArg _ ?_), fun w hb => hserve.trans (congrArg _ ?_), ?_⟩
  · rw [State.revokeSlot, hslot, if_pos hg, hb]
  · rw [State.revokeSlot, hslot, if_pos hg, hb]
  intro h hb v before
  rw [State.revokeSlot, hslot, if_pos hg, hb] at hserve
  have hbefore : (u.link l).outbound.length = before := by simp [u, before, LinkUnit.taken]
  simp only [hbefore] at hserve
  refine ⟨fun hf => ?_, fun p r hf hr hs => ?_, fun p r hf hr hs => ?_⟩ <;>
    refine hserve.trans (congrArg _ ?_)
  · have hlink : (u.endLease i h revokeEnd).link l = u.link l := endLease_link (by simp [hf, State.flight]) _ l
    rw [endLeaseAndPass_none hf, answerAmong_eq_answer (by simp [hlink, hbefore]), State.leftBy, hf]
    rfl
  · rw [endLeaseAndPass_queued (s := u) hf hr hs, State.leftBy, hf, flight_queued (s := u) hr hs]
    rfl
  · have hlink : (u.endLease i h revokeEnd).link l = u.link l :=
      endLease_link (by simp [hf, flight_active (s := u) hr hs]) _ l
    rw [endLeaseAndPass_active (s := u) hf hr hs, State.leftBy, hf, flight_active (s := u) hr hs]
    refine answerAmong_eq_answer ?_ _ _ _
    split <;> simp [hlink, hbefore]

/-! ### The other timers (R12, R43, R44, R115) -/

/-- Settles O21: each timer by the state of its slot, or of its session. -/
theorem timersRunOut : Obligations.TimersRunOut := by
  intro s i l at_ subject left
  refine ⟨?_, ?_, fun h d hb hu => ?_, fun key d hs => ?_⟩
  · intro h hb hw hwarn due
    have hdue : (s.advanceTo due).warnIfDue i = _ :=
      warnIfDue_of_held (s := s.advanceTo due) (i := i) hb hw
    have hnow : h.termDeadline - (s.advanceTo due).now ≤ (s.advanceTo due).warnMs h.target := by
      have : h.termDeadline - max s.now due ≤ s.warnMs h.target := by omega
      exact this
    rw [if_pos ⟨hwarn, hnow⟩] at hdue
    simp only [exec, execLapseWarning, State.warningFallsDue, hb, hw, hwarn, and_self, if_true]
    exact congrArg _ hdue
  · intro w hb v
    simp only [exec, execWaitExpiry, State.waitExpires, hb, State.grantPassIf, State.isHead,
      decide_eq_true_eq]
    rfl
  · simp only [exec, execUpgradeWaitExpiry, State.upgradeExpires, hb, hu]
    rfl
  · simp only [exec, execGraceExpiry, State.graceExpires, hs]
    rfl

end Sys2Proof.Machine

/-! The whole grant pass (R37, O20): the slots it grants, the slots it leaves, and the head it stops at;
and that a pass on one target leaves what is settled on another. -/

namespace Sys2Proof.Machine

variable {s v : State} {t x : EntryIx} {i : SlotIx}

/-! ### Whole arrays by their records -/

theorem links_ext (h : ∀ k, v.link k = s.link k) : v.links = s.links :=
  Vector.ext fun k hk => h ⟨k, hk⟩

theorem pool_ext (h : ∀ k, v.record k = s.record k) : v.pool = s.pool :=
  Vector.ext fun k hk => h ⟨k, hk⟩

theorem engines_ext (h : ∀ k, v.engine k = s.engine k) : v.engines = s.engines :=
  Vector.ext fun k hk => h ⟨k, hk⟩

theorem sessions_ext (h : ∀ k, v.session k = s.session k) : v.sessions = s.sessions :=
  Vector.ext fun k hk => h ⟨k, hk⟩

theorem rights_ext (h : ∀ k, v.rightsOf k = s.rightsOf k) : v.rights = s.rights :=
  Vector.ext fun k hk => h ⟨k, hk⟩

/-! ### A grant of the head (R38, R39) -/

/-- What a grant leaves of the slots: the granted one is HELD on its target with no upgrade pending. -/
theorem grantHead_slots (h : s.grantHead i = some v) :
    (∀ j, j ≠ i → v.slot j = s.slot j) ∧ (v.slot i).generation = (s.slot i).generation ∧
      ∃ g, (v.slot i).body = .held g ∧ (s.slot i).body.target? = some g.target ∧ g.upgrade = none := by
  unfold State.grantHead at h
  split at h
  · rename_i w hb
    split at h
    · cases h
      rw [grantWaiting_eq]
      refine ⟨fun j hj => ?_, ?_, { grantedSlot w.owner w.target w.mode w.requestedTerm s.now with
          lapseWarned := decide (0 < s.warnMs w.target ∧ w.requestedTerm ≤ s.warnMs w.target) }, ?_,
        by rw [hb]; rfl, rfl⟩ <;> dsimp only <;> split <;>
        simp [State.setBody_eq, *]
    · cases h
  · rename_i g hb
    split at h
    · cases h
      refine ⟨fun j hj => ?_, ?_, { g with mode := .exclusive, upgrade := none }, ?_, by rw [hb]; rfl, rfl⟩ <;>
        simp [State.grantUpgrade, State.setBody_eq, *]
    · cases h
  · cases h
  · cases h

/-- R37.2: the head of the queue of a target cannot be granted. -/
def State.HeadBlocked (s : State) (t : EntryIx) : Prop :=
  ∀ i rest, (s.entry t).waitQueue = i :: rest →
    (∀ w, (s.slot i).body = .waiting w → s.compatible t w.mode = false) ∧
    ∀ h, (s.slot i).body = .held h → s.onlyHolder t i = false

/-- A head that waits on the target and is not granted is not compatible with its holders. -/
theorem headBlocked_of_none {rest : List SlotIx} (hq : (s.entry t).waitQueue = i :: rest)
    (hw : (s.slot i).body.waitsOn t = true) (h : (s.setWaitQueue t rest).grantHead i = none) :
    s.HeadBlocked t := by
  intro j rest' hq'
  cases hq.symm.trans hq'
  refine ⟨fun w hb => ?_, fun g hb => ?_⟩
  · have ht : w.target = t := by simpa [hb, SlotBody.waitsOn] using hw
    rw [grantHead_waiting (s := s.setWaitQueue t rest) hb] at h
    split at h
    · cases h
    · rename_i hc
      subst ht
      exact Bool.eq_false_iff.mpr hc
  · have ht : g.target = t ∧ g.upgrade.isSome = true := by simpa [hb, SlotBody.waitsOn] using hw
    rw [grantHead_upgrade (s := s.setWaitQueue t rest) hb ht.2] at h
    split at h
    · cases h
    · rename_i hc
      rw [← ht.1]
      exact Bool.eq_false_iff.mpr hc

/-! ### The whole pass (R37) -/

/-- What a pass over the queue `q` leaves: a front part of it is granted, every other slot stays, and the
pass stops at an empty queue or at a head that cannot be granted. -/
structure Settled (t : EntryIx) (q : List SlotIx) (s v : State) : Prop where
  blocked : v.HeadBlocked t
  front : ∃ k, (v.entry t).waitQueue = q.drop k ∧
    (∀ i, i ∉ q.take k → v.slot i = s.slot i) ∧
    ∀ i ∈ q.take k, (v.slot i).generation = (s.slot i).generation ∧
      ∃ h, (v.slot i).body = .held h ∧ h.target = t ∧ h.upgrade = none

theorem grantLoop_settled (q : List SlotIx) (s : State) (hq : (s.entry t).waitQueue = q)
    (hn : q.Nodup) (hw : ∀ i ∈ q, (s.slot i).body.waitsOn t = true) :
    Settled t q s (grantLoop t q s) := by
  induction q generalizing s with
  | nil =>
    refine ⟨fun i rest h => ?_, 0, hq, fun _ _ => rfl, nofun⟩
    cases hq.symm.trans h
  | cons i rest ih =>
    rw [grantLoop]
    cases hg : (s.setWaitQueue t rest).grantHead i with
    | none =>
      exact ⟨headBlocked_of_none hq (hw i List.mem_cons_self) hg, 0, hq, fun _ _ => rfl, nofun⟩
    | some s' =>
      obtain ⟨hi, hn⟩ := List.nodup_cons.mp hn
      obtain ⟨hothers, hgen, g, hbody, htarget, hup⟩ := grantHead_slots hg
      obtain ⟨-, -, -, -, -, -, -, -, -, -, -, hentry, -⟩ := grantHead_frame hg
      have hslot : ∀ j, j ≠ i → s'.slot j = s.slot j := fun j hj => hothers j hj
      have ht : g.target = t := by
        have hwi := target_of_waitsOn (hw i List.mem_cons_self)
        exact Option.some.inj (htarget.symm.trans hwi)
      obtain ⟨hblocked, k, hdrop, hrest, hfront⟩ := ih s'
        (by rw [hentry]; simp [State.setWaitQueue_eq]) hn
        (fun j hj => by
          rw [hslot j (by rintro rfl; exact hi hj)]
          exact hw j (List.mem_cons_of_mem _ hj))
      refine ⟨hblocked, k + 1, hdrop, fun j hj => ?_, fun j hj => ?_⟩
      · obtain ⟨hji, hj⟩ := List.ne_and_not_mem_of_not_mem_cons hj
        exact (hrest j hj).trans (hslot j hji)
      · by_cases hji : j = i
        · subst hji
          have hself := hrest j fun hm => hi (List.mem_of_mem_take hm)
          rw [hself]
          exact ⟨hgen, g, hbody, ht, hup⟩
        · have hj : j ∈ rest.take k := (List.mem_cons.mp hj).resolve_left hji
          rw [← hslot j hji]
          exact hfront j hj

theorem grantPass_settled (h : s.QueueLaw t) : Settled t (s.entry t).waitQueue s (s.grantPass t) := by
  obtain ⟨hn, hm, -⟩ := h
  exact grantLoop_settled _ s rfl hn fun i hi => (hm i).mp hi

/-- Settles O20: what the pass leaves of the queue, by induction along it, and its frame. -/
theorem grantPassSettlesQueue : Obligations.GrantPassSettlesQueue := by
  intro s t h v
  obtain ⟨hblocked, hfront⟩ := grantPass_settled h
  refine ⟨hfront, hblocked, ?_, ?_, links_ext ?_, pool_ext ?_, engines_ext ?_, sessions_ext ?_,
    rights_ext ?_, ?_⟩
  · simp [v]
  · intro x hx
    obtain ⟨-, -, -, -, -, -, -, -, -, -, -, -, hentry, -⟩ := State.grantPass_frame s t
    exact hentry x hx
  all_goals simp [v]

/-! ### A pass on another target -/

/-- Slots on another target do not stand in a holder set. -/
theorem holders_congr (h : ∀ k, v.slot k = s.slot k ∨
    (s.slot k).body.target? ≠ some x ∧ (v.slot k).body.target? ≠ some x) :
    v.holders x = s.holders x := by
  have hoff : ∀ {b : SlotBody}, b.target? ≠ some x → ∀ m, b.holding? ≠ some (x, m) := by
    intro b hb m hm
    cases b <;> simp_all [SlotBody.target?, SlotBody.holding?]
  refine List.filterMap_congr fun k _ => ?_
  rcases h k with heq | ⟨hs, hv⟩
  · rw [heq]
  · cases hsk : (s.slot k).body.holding? with
    | none =>
      cases hvk : (v.slot k).body.holding? with
      | none => rfl
      | some y => simp [show y.1 ≠ x from fun hy => hoff hv y.2 (by rw [hvk, ← hy])]
    | some z =>
      have hz : z.1 ≠ x := fun hz => hoff hs z.2 (by rw [hsk, ← hz])
      cases hvk : (v.slot k).body.holding? with
      | none => simp [hz]
      | some y => simp [hz, show y.1 ≠ x from fun hy => hoff hv y.2 (by rw [hvk, ← hy])]

/-- A pass on one target leaves the head of another's queue blocked. -/
theorem headBlocked_grantPass (hx : s.QueueLaw x) (ht : s.QueueLaw t) (hb : s.HeadBlocked x) :
    (s.grantPass t).HeadBlocked x := by
  by_cases hxt : x = t
  · subst hxt
    exact (grantPass_settled hx).blocked
  obtain ⟨-, k, -, hrest, -⟩ := grantPass_settled ht
  have hoff : ∀ j ∈ (s.entry t).waitQueue, (s.slot j).body.target? = some t := fun j hj =>
    target_of_waitsOn ((ht.2.1 j).mp hj)
  have hslot : ∀ j, (s.grantPass t).slot j = s.slot j ∨ (s.slot j).body.target? = some t := fun j => by
    by_cases hj : j ∈ (s.entry t).waitQueue.take k
    · exact .inr (hoff j (List.mem_of_mem_take hj))
    · exact .inl (hrest j hj)
  have hholders : (s.grantPass t).holders x = s.holders x := holders_congr fun j =>
    (hslot j).imp_right fun hj => by
      have hne : (some t : Option EntryIx) ≠ some x := fun h => hxt (Option.some.inj h).symm
      exact ⟨hj ▸ hne, (keepsAll_grantPass s t j).target.trans hj ▸ hne⟩
  obtain ⟨-, -, -, -, -, -, -, -, -, -, -, -, hentry, -⟩ := State.grantPass_frame s t
  intro i rest hq
  rw [hentry x hxt] at hq
  have hi : (s.grantPass t).slot i = s.slot i := (hslot i).resolve_right fun hj => by
    have := target_of_waitsOn ((hx.2.1 i).mp (hq ▸ List.mem_cons_self))
    exact hxt (Option.some.inj (this.symm.trans hj))
  have hc : ∀ m, (s.grantPass t).compatible x m = s.compatible x m := fun m => by
    cases m <;> simp only [State.compatible, hholders]
  rw [hi, State.onlyHolder, hholders]
  simp only [hc]
  exact hb i rest hq

end Sys2Proof.Machine

/-! The transaction unit (Section 4): READ and WRITE accepted (R70) and refused (R69), completion and its
routing (R76 to R79), and the segments of a WRITE and of a STORE (R72, R144). -/

namespace Sys2Proof.Machine

variable {s : State} {l : Link} {f : Frame} {rest : List Frame} {i : SlotIx} {p : PoolIx}
  {r : Record} {h : HeldSlot} {kind : TxKind} {fields : TargetFields} {offset count : Nat}

/-! ### The checks of READ and WRITE (R69) -/

theorem freeRecord?_eq_none : s.freeRecord? = none ↔ ∀ p, s.record p ≠ none := by
  simp [State.freeRecord?, poolIndices]

theorem roomFor_eq_none {b : BusIx} :
    s.roomFor b = none ↔ 8 ≤ (s.busQueue b).length ∨ ∀ p, s.record p ≠ none := by
  rw [State.roomFor, ← freeRecord?_eq_none]
  by_cases hb : 8 ≤ (s.busQueue b).length
  · simp [Config.busQueueDepth, hb, Nat.not_lt.mpr hb]
  · simp [Config.busQueueDepth, hb, Nat.lt_of_not_le hb]

theorem within_eq_false : fields.within offset count = false ↔
    fields.capacity < offset + count ∨ (fields.offsetWidth = 0 ∧ offset ≠ 0) := by
  simp [TargetFields.within, -not_and]
  omega

/-- R69: the checks are those of `State.transactionRefusal`, in its order. -/
theorem admitTransaction_refused {st : Status} (ht : (s.entry h.target).body.fields? = some fields)
    (hr : s.transactionRefusal kind h fields offset count = some st) :
    s.admitTransaction kind h offset count = .error st := by
  unfold State.transactionRefusal at hr
  unfold State.admitTransaction
  split at hr
  · rename_i hmode
    cases hr
    rw [if_pos hmode]
  rename_i hmode
  rw [if_neg hmode]
  split at hr
  · rename_i hflight
    cases hr
    rw [if_pos (by simpa [Option.isSome_iff_ne_none] using hflight)]
  rename_i hflight
  rw [if_neg (by simpa using hflight), ht]
  split at hr
  · rename_i hbounds
    cases hr
    simp [within_eq_false.mpr hbounds]
  rename_i hbounds
  have hwithin := (Bool.not_eq_false _).mp (mt within_eq_false.mp hbounds)
  split at hr
  · rename_i hfault
    cases hr
    simp [hwithin, State.busFaulted, hfault]
  rename_i hfault
  split at hr
  · rename_i hfull
    cases hr
    simp [hwithin, State.busFaulted, hfault, roomFor_eq_none.mpr hfull]
  · cases hr

/-- R69, R70: a request that no check refuses finds a record. -/
theorem admitTransaction_accepted (ht : (s.entry h.target).body.fields? = some fields)
    (hr : s.transactionRefusal kind h fields offset count = none) :
    ∃ p, s.record p = none ∧ s.admitTransaction kind h offset count = .ok (p, fields) := by
  unfold State.transactionRefusal at hr
  iterate 4
    split at hr
    · cases hr
  rename_i hmode hflight hbounds hfault
  split at hr
  · cases hr
  rename_i hfull
  obtain ⟨p, hp⟩ := Option.ne_none_iff_exists'.mp (mt roomFor_eq_none.mp hfull)
  have hwithin := (Bool.not_eq_false _).mp (mt within_eq_false.mp hbounds)
  refine ⟨p, (roomFor_some hp).2, ?_⟩
  rw [State.admitTransaction, if_neg hmode, if_neg (by simpa using hflight), ht]
  simp [hwithin, State.busFaulted, hfault, hp]

theorem serveTransaction_accepted {data : List Byte} (hc : s.checkHandle l f.body = .held i h)
    (ha : s.admitTransaction kind h (wordAt f.body 3) count = .ok (p, fields)) :
    serveTransaction kind l f count data s = (s.acceptTransaction i h p (newRecord kind l f.tag
      ⟨i, (s.slot i).generation⟩ fields (wordAt f.body 3) count data)).answerLater l := by
  simp only [serveTransaction, hc, ha]

theorem serveTransaction_refused {data : List Byte} {st : Status}
    (hc : s.checkHandle l f.body = .held i h)
    (ha : s.admitTransaction kind h (wordAt f.body 3) count = .error st) :
    serveTransaction kind l f count data s = s.answer l f.tag st [] := by
  simp only [serveTransaction, hc, ha]

/-- Settles O28: the handle and the checks pass, so the record that has room joins the queue. -/
theorem transactionAccepted : Obligations.TransactionAccepted := by
  intro s l r kind f rest i h fields count data hkind ha hn ht hr bus later
  obtain ⟨p, hp, hadmit⟩ := admitTransaction_accepted (s := s.taking l rest) ht hr
  refine ⟨p, hp, ?_⟩
  have hserve := serveTransaction_accepted (s := s.taking l rest) (data := data)
    (checkHandle_eq_held hn) hadmit
  rcases hkind with ⟨rfl, rfl, rfl, rfl⟩ | ⟨rfl, rfl, rfl, rfl⟩
  · exact (exec_read ha).trans (congrArg _ hserve)
  · exact (exec_write ha).trans (congrArg _ hserve)

/-- Settles O29: the first check that fails refuses. -/
theorem transactionRefused : Obligations.TransactionRefused := by
  intro s l r kind f rest i h fields count status hkind ha hn ht hr
  have hserve := fun data => serveTransaction_refused (s := s.taking l rest) (data := data)
    (checkHandle_eq_held hn) (admitTransaction_refused ht hr)
  rcases hkind with ⟨rfl, rfl, rfl⟩ | ⟨rfl, rfl, rfl⟩
  · exact (exec_read ha).trans (congrArg _ (hserve _))
  · exact (exec_write ha).trans (congrArg _ (hserve _))

/-! ### Completion (R76) -/

theorem carriedBytes_eq (kind : TxKind) (status : Status) (n : Nat) :
    carriedBytes kind status n = match kind with
      | .store => 0
      | .read => if status = .ok then n else 0
      | .write => n := by
  cases kind <;> rfl

theorem complete_of_handle {g : Handle} (hr : s.record p = some r) (hh : r.handle = some g)
    (status : Status) (n : Nat) : s.complete p status n =
      ((s.setRecord p (some (r.completed status n))).clearFlight g).route p (r.completed status n)
        (s.detached g.slot) := by
  simp only [State.complete, hr, hh]

theorem complete_of_store (hr : s.record p = some r) (hh : r.handle = none) (status : Status) (n : Nat) :
    s.complete p status n =
      (s.setRecord p (some (r.completed status n))).route p (r.completed status n) false := by
  simp only [State.complete, hr, hh]

theorem targetInUse_freeSlot {t : EntryIx} : (s.freeSlot i).targetInUse t = true ↔
    ∃ j, j ≠ i ∧ (s.slot j).body.target? = some t := by
  rw [targetInUse_iff]
  refine exists_congr fun j => ?_
  by_cases hj : j = i <;> simp [State.freeSlot_eq, hj, SlotBody.target?]

/-- Settles O30: by what the slot of the record is, and for an ENDING one by its entry. -/
theorem completionClearsSlot : Obligations.CompletionClearsSlot := by
  intro s p r status n hr bytes r' v
  have hr' : r.completed status n = r' := by
    simp only [Record.completed, carriedBytes_eq]
    rfl
  refine ⟨fun hh => ?_, fun i hh => ⟨fun h hb => ?_, fun e hb => ?_⟩⟩
  · rw [complete_of_store hr hh, hr']
  · simp only [complete_of_handle hr hh, hr', State.clearFlight, State.detached, hb, State.setRecord_frame,
      if_true]
    rfl
  · intro w used x
    have hcomplete : s.complete p status n = (v.freeEnding i e.target).route p r' (e.owner == none) := by
      have hdetached : s.detached i = (e.owner == none) := by
        simp only [State.detached, hb]
        cases e.owner <;> rfl
      simp only [complete_of_handle hr hh, hr', State.clearFlight, hdetached, hb, State.setRecord_frame, if_true]
      rfl
    have hused : w.targetInUse e.target = true ↔ used := targetInUse_freeSlot (s := v)
    have hentry : (w.entry e.target).body = (s.entry e.target).body := rfl
    rw [hcomplete]
    refine ⟨fun hfree => ?_, fun ⟨g, hg⟩ hu => ?_⟩
    · congr 1
      simp only [x, State.freeEnding]
      rw [show v.freeSlot i = w from rfl, hentry]
      cases hg : (s.entry e.target).body with
      | retiring g =>
        have hnot : ¬ used := hfree.resolve_left fun hn => hn g hg
        simp only [mt hused.mp hnot]
        rfl
      | absent | present => rfl
    · congr 1
      simp only [State.freeEnding]
      rw [show v.freeSlot i = w from rfl, hentry, hg]
      simp only [hused.mpr hu, if_true]

/-! ### Routing (R77 to R79) -/

/-- Settles O31: by the destination and the state of its session. -/
theorem completionRouting : Obligations.CompletionRouting := by
  intro s p r detached job freed
  refine ⟨fun hd => ?_, fun l hl hd => ⟨fun hs => ?_, fun key d hs => ?_, fun key hs => ?_⟩⟩
  · rcases hd with hd | hd
    · simp only [State.route, hd]
      rfl
    · cases hdest : r.destination <;> simp only [State.route, hdest, hd] <;> rfl
  · simp only [State.route, hl, hs]
    rfl
  · have hjob : (s.offerNotice l (doneUnseenNotice r)).saveJob = s.saveJob := by simp
    simp only [State.route, hl, hs, State.freeRecord, hjob]
    cases hh : r.handle <;> simp only [doneUnseenNotice, hh] <;> rfl
  · simp only [State.route, hl, hs, State.offerCompletion, Bool.and_eq_true, List.isEmpty_iff]
    rfl

/-! ### Segments (R72, R144) -/

/-- R72: the end of the page that holds an offset lies past it, and no page begins in between. -/
theorem page_end {page start : Nat} (hp : 0 < page) : start < (start / page + 1) * page ∧
    ∀ m, start < m → m < (start / page + 1) * page → ¬ page ∣ m := by
  refine ⟨Nat.lt_mul_of_div_lt (Nat.lt_succ_self _) hp, ?_⟩
  rintro _ hlt hm ⟨c, rfl⟩
  have hc : c < start / page + 1 := by
    rw [Nat.mul_comm] at hm
    exact Nat.lt_of_mul_lt_mul_right hm
  have : page * c ≤ start := (Nat.mul_le_mul_left _ (Nat.le_of_lt_succ hc)).trans (Nat.mul_div_le _ _)
  omega

/-- Settles O32: the end of the segment against the page and the end of the phase's data. -/
theorem segmentPlan : Obligations.SegmentPlan := by
  intro r image hp
  refine ⟨fun hphase hw hstart hlen => ?_, fun hphase hw hle hlt => ?_, fun hs hphase hstart => ?_,
    fun hs hphase hle hlt => ?_, fun hs hphase hstart => ?_⟩
  · simp [Record.segmentData, Record.nextSegment, Record.segmentLength, Record.segmentEnd,
      Record.phaseEnd, hphase, hw, hstart, ← hlen]
  · obtain ⟨hpage, hnone⟩ := page_end (start := r.nextStart) hp
    have hend : r.segmentEnd =
        min ((r.nextStart / r.snapshot.pageSize + 1) * r.snapshot.pageSize) (r.offset + r.count) := by
      simp only [Record.segmentEnd, Record.phaseEnd, hphase, Nat.ne_of_gt hw, if_false]
    refine ⟨r.segmentEnd - r.nextStart, by omega, rfl, ?_, fun j hj hjk => ?_, ?_⟩
    · simp only [Record.segmentData, Record.segmentLength, hphase]
    · exact hnone _ (by omega) (by omega)
    · have hphaseEnd : r.phaseEnd = r.offset + r.count := by simp only [Record.phaseEnd, hphase]
      rw [show r.nextStart + (r.segmentEnd - r.nextStart) = r.segmentEnd by omega]
      by_cases hlast : r.segmentEnd < r.offset + r.count
      · refine .inr ⟨hlast, ?_, ?_⟩
        · rw [hend, Nat.min_eq_left (by omega)]
          exact Nat.dvd_mul_left _ _
        · simp only [Record.nextSegment, hphaseEnd, hlast, if_true]
      · refine .inl ⟨by omega, ?_⟩
        simp only [Record.nextSegment, hphaseEnd, hlast, if_false, hphase]
  · simp [Record.segmentData, Record.nextSegment, Record.segmentEnd, Record.phaseEnd, hphase, hs,
      hstart, storeSnapshot]
  · have hend : r.segmentEnd = min ((r.nextStart / 32 + 1) * 32) r.count := by
      simp [Record.segmentEnd, Record.phaseEnd, hphase, hs, storeSnapshot]
    simp only [Record.segmentData, Record.segmentLength, Record.nextSegment, Record.phaseEnd, hphase,
      hend]
    exact ⟨trivial, by split <;> rfl⟩
  · simp [Record.segmentData, Record.nextSegment, Record.segmentEnd, Record.phaseEnd, hphase, hs,
      hstart, storeSnapshot, signature]

end Sys2Proof.Machine

/-! Where the event of a command cannot happen, nothing changes (O37), and the checks of the intake (R157,
O36). -/

namespace Sys2Proof.Machine

variable {s : State} {l : Link} {i : SlotIx} {b : BusIx} {lines : LineLevels}

/-! ### A listed request is served -/

/-- R157: the command of a listed request serves it, by its owner. -/
theorem exec_command (r : Request) (l : Link) :
    ∃ owner, ∀ s, exec (r.command l) s = .next (s.serve l r owner) := by
  cases r <;> exact ⟨_, fun _ => rfl⟩

theorem mem_allRequests (r : Request) : r ∈ allRequests := by
  cases r <;> decide

theorem requestOf_eq_none {c : Byte} : requestOf c = none ↔ ∀ r : Request, c ≠ r.code := by
  simp only [requestOf, List.find?_eq_none, beq_iff_eq]
  exact ⟨fun h r hr => h r (mem_allRequests r) hr.symm, fun h r _ hr => h r hr.symm⟩

/-! ### The intake (R155, R157) -/

theorem intakeReady_iff : s.intakeReady l = true ↔ (s.link l).restoreHold = none ∧
    ((s.link l).granted = true ∨ (s.link l).placeAvailable = true ∧ s.waitingDone l = [] ∧
      (s.link l).pendingReject = none) := by
  simp only [State.intakeReady, State.intakeFirst, Bool.and_eq_true, Bool.or_eq_true,
    Option.isNone_iff_eq_none, List.isEmpty_iff]
  exact and_comm.trans (and_congr_right fun _ => or_congr_right (and_assoc))

theorem serveUnlisted_offered {f : Frame} {rest : List Frame} (h : s.Offers l f rest)
    (hc : ∀ r : Request, f.code ≠ r.code) : s.serveUnlisted l = (s.taking l rest).answer l f.tag
      (if s.part = .starting then .starting else .badreq) [] := by
  obtain ⟨hi, hq⟩ := h
  simp only [State.serveUnlisted, State.takeFrame, hi, hq, requestOf_eq_none.mpr hc, if_true,
    Option.isNone_none]
  rfl

/-- Settles O36: the generic checks in their order. -/
theorem intakeChecks : Obligations.IntakeChecks := by
  refine ⟨fun s l => intakeReady_iff, fun s l f rest ho => ?_⟩
  intro u
  refine ⟨fun r hc => ?_, fun hc => congrArg _ (serveUnlisted_offered ho hc)⟩
  intro refused
  have hrefused : ∀ {st}, s.genericRefusal l r f = some st → refused st := fun hg => by
    obtain ⟨owner, hexec⟩ := exec_command r l
    exact (hexec s).trans (congrArg _ (serve_refused ho hc hg owner))
  refine ⟨fun hp => hrefused ?_, fun hp hb => hrefused ?_, fun hp hb hs hr => hrefused ?_,
    fun hp hb hs hr hsup => hrefused ?_⟩
  · simp [State.genericRefusal, hp]
  · simp [State.genericRefusal, hp, hb]
  · simp [State.genericRefusal, hp, hb, hs, hr]
  · simp [State.genericRefusal, hp, hb, hs, hr, hsup]

/-! ### Timers that are not running -/

section Timers

variable (hn : ∀ h, (s.slot i).body ≠ .held h)

include hn

theorem termExpires_of_not_held : s.termExpires i = s := by
  cases hb : (s.slot i).body with
  | held h => exact absurd hb (hn h)
  | free | waiting | ending => simp only [State.termExpires, hb]

theorem warningFallsDue_of_not_held : s.warningFallsDue i = s := by
  cases hb : (s.slot i).body with
  | held h => exact absurd hb (hn h)
  | free | waiting | ending => simp only [State.warningFallsDue, hb]

theorem upgradeExpires_of_not_held : s.upgradeExpires i = s := by
  cases hb : (s.slot i).body with
  | held h => exact absurd hb (hn h)
  | free | waiting | ending => simp only [State.upgradeExpires, hb]

end Timers

theorem upgradeExpires_of_none {h : HeldSlot} (hb : (s.slot i).body = .held h) (hu : h.upgrade = none) :
    s.upgradeExpires i = s := by
  simp only [State.upgradeExpires, hb, hu]

theorem warningFallsDue_of_given {h : HeldSlot} (hb : (s.slot i).body = .held h)
    (hw : h.lapseWarned = true ∨ s.warnMs h.target = 0) : s.warningFallsDue i = s := by
  have hnot : ¬ (h.lapseWarned = false ∧ 0 < s.warnMs h.target) := by
    rintro ⟨hwarned, hpos⟩
    rcases hw with hw | hw
    · simp [hw] at hwarned
    · omega
  simp only [State.warningFallsDue, hb, if_neg hnot]

theorem waitExpires_of_not_waiting (hn : ∀ w, (s.slot i).body ≠ .waiting w) : s.waitExpires i = s := by
  cases hb : (s.slot i).body with
  | waiting w => exact absurd hb (hn w)
  | free | held | ending => simp only [State.waitExpires, hb]

theorem graceExpires_of_not_suspended (hn : ∀ key d, s.session l ≠ .suspended key d) :
    s.graceExpires l = s := by
  cases hs : s.session l with
  | suspended key d => exact absurd hs (hn key d)
  | closed | opened => simp only [State.graceExpires, hs]

theorem restartTears_of_not_mem (hn : ∀ job, s.restart = some job → l ∉ job.teardowns) :
    s.restartTears l lines = s := by
  cases hj : s.restart with
  | none => simp only [State.restartTears, hj]
  | some job => simp [State.restartTears, hj, hn job hj]

/-! ### The line, the framer and the transmitter -/

theorem transmitStarts_of_not (h : (s.link l).line = .down ∨ (s.link l).outbound = [] ∨
    (s.link l).sending ≠ none) (holdin : Bool) : s.transmitStarts l holdin = s := by
  rw [State.transmitStarts]
  split
  · rename_i hidle
    obtain ⟨hup, hsending, -⟩ := hidle
    rcases h with h | h | h
    · simp [h] at hup
    · simp only [h]
    · exact absurd hsending h
  · rfl

theorem badCharacter_of_down (h : (s.link l).line = .down) : s.badCharacter l = s := by
  simp only [State.badCharacter, h]

theorem badCharacter_of_hunt (h : (s.link l).framer = .hunt) : s.badCharacter l = s := by
  cases hline : (s.link l).line <;> simp only [State.badCharacter, h, hline]

/-! ### The engines -/

theorem takeWork_nothing (h : (s.engine b).state ≠ .idle ∨ (b = 0 → s.load = none) ∧ s.busQueue b = []) :
    s.takeWork b lines = s := by
  rw [State.takeWork]
  rcases h with h | ⟨hload, hqueue⟩
  · rw [if_neg h]
  · have hnot : ¬ (b = 0 ∧ s.load.isSome = true) := fun ⟨hb, hsome⟩ => by simp [hload hb] at hsome
    simp only [if_neg hnot, hqueue, ite_self]

theorem attemptRun_of_not_underway (h : s.underway b = none) (readings : List Bool) :
    s.attemptRun b readings = none := by
  simp only [State.attemptRun, h]

theorem attemptRun_of_underway {a : Attempt} {plan : BusPlan} (h : s.underway b = some (a, plan))
    (readings : List Bool) : s.attemptRun b readings =
      (runElements plan.elements readings).map fun run => (a, run, s.setGiven b ⟨plan.speed, run.given⟩) := by
  simp only [State.attemptRun, h]
  cases runElements plan.elements readings <;> rfl

section Attempts

variable {readings : List Bool}

theorem attemptEnds_nothing (h : s.attemptRun b readings = none) :
    s.readOperationEnds b readings lines = s ∧ s.writeSegmentEnds b readings lines = s ∧
      s.busyPollEnds b readings lines = s := by
  simp only [State.readOperationEnds, State.writeSegmentEnds, State.busyPollEnds, h, and_self]

variable {run : BusRun} {v : State}

theorem readOperationEnds_of_poll {began : Nat}
    (h : s.attemptRun b readings = some (.poll began, run, v)) :
    s.readOperationEnds b readings lines = s ∧ s.writeSegmentEnds b readings lines = s := by
  simp only [State.readOperationEnds, State.writeSegmentEnds, h, and_self]

theorem busyPollEnds_of_operation (h : s.attemptRun b readings = some (.operation, run, v)) :
    s.busyPollEnds b readings lines = s := by
  simp only [State.busyPollEnds, h]

theorem readOperationEnds_of_not_read
    (hk : ∀ p, (s.engine b).work = .record p → ∀ r, s.record p = some r → r.kind ≠ .read)
    (hl : (s.engine b).work ≠ .load) : s.readOperationEnds b readings lines = s := by
  rw [State.readOperationEnds]
  split
  · split
    · split
      · rw [if_neg (hk _ ‹_› _ ‹_›)]
      · rfl
    · exact absurd ‹_› hl
    · rfl
  · rfl

theorem writeSegmentEnds_of_read
    (hk : ∀ p, (s.engine b).work = .record p → ∀ r, s.record p = some r → r.kind = .read) :
    s.writeSegmentEnds b readings lines = s := by
  rw [State.writeSegmentEnds]
  split
  · split
    · split
      · rw [if_pos (hk _ ‹_› _ ‹_›)]
      · rfl
    · rfl
  · rfl

end Attempts

theorem stretchFault_of_not_underway (h : s.underway b = none) (point : StretchPoint) :
    s.stretchFault b point = s := by
  simp only [State.stretchFault, h]

theorem stretchFault_of_no_point {a : Attempt} {plan : BusPlan} {point : StretchPoint}
    (h : s.underway b = some (a, plan)) (hn : ∀ run, ¬ StretchedAt plan.elements point run) :
    s.stretchFault b point = s := by
  have hnone : runToStretch plan.elements point = none :=
    Option.eq_none_iff_forall_ne_some.mpr fun run hrun => hn run (runToStretch_iff.mp hrun)
  simp only [State.stretchFault, h, hnone]

theorem clockStuck_of_not_waiting (hn : ∀ a, (s.engine b).state ≠ .active (.lineWait a)) :
    s.clockStuck b lines = s := by
  rw [State.clockStuck]
  split
  · exact absurd ‹_› (hn _)
  · rfl

theorem recoveryEnds_of_not_recovering (hn : ∀ a, (s.engine b).state ≠ .active (.lineWait a))
    (hc : ∀ c, (s.engine b).state ≠ .recovering c) (met : List LineLevels) :
    s.recoveryEnds b met lines = s := by
  have hno : (s.engine b).state.mayRecover = false := by
    rw [EngineState.mayRecover.eq_def]
    split
    · exact absurd ‹_› (hc _)
    · exact absurd ‹_› (hn _)
    · rfl
  simp only [State.recoveryEnds, hno, Bool.false_eq_true, if_false]
  cases runRecovery met <;> rfl

/-- Settles O37: each command where its event cannot happen. -/
theorem noEventNoChange : Obligations.NoEventNoChange := by
  intro s l i b lines
  refine ⟨fun r h => ?_, fun h => congrArg _ (?_ : s.serveUnlisted l = s),
    fun h => ⟨congrArg _ (termExpires_of_not_held h),
    congrArg _ (warningFallsDue_of_not_held h), congrArg _ (upgradeExpires_of_not_held h)⟩,
    fun h hb => ⟨fun hu => congrArg _ (upgradeExpires_of_none hb hu),
      fun hw => congrArg _ (warningFallsDue_of_given hb hw)⟩,
    fun h => congrArg _ (waitExpires_of_not_waiting h),
    fun h => congrArg _ (graceExpires_of_not_suspended h),
    fun h => congrArg _ (restartTears_of_not_mem h), fun h => congrArg _ (?_ : s.idleFound l = s),
    fun h => ⟨fun c => congrArg _ (?_ : s.charReceived l c = s),
      congrArg _ (badCharacter_of_down h),
      fun holdin => congrArg _ (transmitStarts_of_not (.inl h) holdin)⟩,
    fun h => ⟨congrArg _ (badCharacter_of_hunt h), congrArg _ (?_ : s.gapExpires l = s)⟩,
    fun h holdin => congrArg _ (transmitStarts_of_not (.inr h) holdin),
    fun h => congrArg _ (?_ : s.frameSent l = s),
    fun h => congrArg _ (takeWork_nothing h), fun h => ?_, fun a plan h => ?_,
    fun met h => congrArg _ (?_ : s.recoveryEnds b met lines = s),
    fun h => ⟨congrArg _ (clockStuck_of_not_waiting h),
      fun hc met => congrArg _ (recoveryEnds_of_not_recovering h hc met)⟩,
    fun h => congrArg _ (?_ : s.retryWaitExpires b lines = s),
    fun h => congrArg _ (?_ : s.pollWaitExpires b lines = s)⟩
  · obtain ⟨owner, hexec⟩ := exec_command r l
    exact (hexec s).trans (congrArg _ (serve_nothing h owner))
  · rcases h with h | h | ⟨f, rest, r, hq, hc⟩
    · simp [State.serveUnlisted, State.takeFrame, h]
    · simp [State.serveUnlisted, State.takeFrame, h]
    · have hlisted : (requestOf f.code).isNone = false := by
        rw [Option.isNone_eq_false_iff, Option.isSome_iff_ne_none]
        exact fun hnone => requestOf_eq_none.mp hnone r hc
      simp [State.serveUnlisted, State.takeFrame, hq, hlisted]
  · simp only [State.idleFound, h]
  · simp only [State.charReceived, h]
  · simp only [State.gapExpires, h]
  · simp [State.frameSent, h]
  · refine ⟨fun readings => ?_, fun point => congrArg _ (stretchFault_of_not_underway h point)⟩
    obtain ⟨hread, hwrite, hpoll⟩ :=
      attemptEnds_nothing (lines := lines) (attemptRun_of_not_underway h readings)
    exact ⟨congrArg _ hread, congrArg _ hwrite, congrArg _ hpoll⟩
  · have hnone : ∀ {readings}, runElements plan.elements readings = none →
        s.attemptRun b readings = none := fun hr => by rw [attemptRun_of_underway h, hr, Option.map_none]
    have hpoll : ∀ readings, a ≠ .operation →
        s.readOperationEnds b readings lines = s ∧ s.writeSegmentEnds b readings lines = s :=
      fun readings ha => by
        cases hr : runElements plan.elements readings with
        | none =>
          obtain ⟨hread, hwrite, -⟩ := attemptEnds_nothing (lines := lines) (hnone hr)
          exact ⟨hread, hwrite⟩
        | some run =>
          cases a with
          | operation => exact absurd rfl ha
          | poll began =>
            exact readOperationEnds_of_poll ((attemptRun_of_underway h readings).trans
              (by rw [hr, Option.map_some]))
    refine ⟨fun readings hn => congrArg _ (?_ : s.readOperationEnds b readings lines = s),
      fun readings hn => congrArg _ (?_ : s.writeSegmentEnds b readings lines = s),
      fun readings hn => congrArg _ (?_ : s.busyPollEnds b readings lines = s),
      fun point hn => congrArg _ (stretchFault_of_no_point h hn)⟩
    · rcases hn with ha | hr | ⟨hk, hl⟩
      · exact (hpoll readings ha).1
      · exact (attemptEnds_nothing (hnone hr)).1
      · exact readOperationEnds_of_not_read hk hl
    · rcases hn with ha | hr | hk
      · exact (hpoll readings ha).2
      · exact (attemptEnds_nothing (hnone hr)).2.1
      · exact writeSegmentEnds_of_read hk
    · cases hr : runElements plan.elements readings with
      | none => exact (attemptEnds_nothing (hnone hr)).2.2
      | some run =>
        obtain rfl := hn.resolve_right (by simp [hr])
        exact busyPollEnds_of_operation ((attemptRun_of_underway h readings).trans
          (by rw [hr, Option.map_some]))
  · simp only [State.recoveryEnds, h]
  · rw [State.retryWaitExpires]
    split
    · exact absurd ‹_› (h _)
    · rfl
  · rw [State.pollWaitExpires]
    split
    · exact absurd ‹_› (h _ _)
    · rfl

end Sys2Proof.Machine

/-! The supervisor's requests: the queries (R26, R104, R121, R142), DROP-TARGET (R58 to R60),
SAVE-CATALOGUE (R143), and RESTART with the end of the drain (R147, R148). -/

namespace Sys2Proof.Machine

variable {s : State} {l k : Link} {f : Frame} {rest : List Frame} {i : SlotIx} {t : EntryIx} {b : BusIx}

/-! ### An admitted request goes to its owner (R157) -/

theorem exec_querySlot (ha : s.Admits l .querySlot f rest) :
    exec (.querySlot l) s = .next (serveQuerySlot l f (s.taking l rest)) :=
  congrArg _ (serve_admits ha serveQuerySlot)

theorem exec_queryBus (ha : s.Admits l .queryBus f rest) :
    exec (.queryBus l) s = .next (serveQueryBus l f (s.taking l rest)) :=
  congrArg _ (serve_admits ha serveQueryBus)

theorem exec_queryLink (ha : s.Admits l .queryLink f rest) :
    exec (.queryLink l) s = .next (serveQueryLink l f (s.taking l rest)) :=
  congrArg _ (serve_admits ha serveQueryLink)

theorem exec_queryStart (ha : s.Admits l .queryStart f rest) :
    exec (.queryStart l) s = .next (serveQueryStart l f (s.taking l rest)) :=
  congrArg _ (serve_admits ha serveQueryStart)

theorem exec_dropTarget (ha : s.Admits l .dropTarget f rest) :
    exec (.dropTarget l) s = .next (serveDropTarget l f (s.taking l rest)) :=
  congrArg _ (serve_admits ha serveDropTarget)

theorem exec_saveCatalogue (ha : s.Admits l .saveCatalogue f rest) :
    exec (.saveCatalogue l) s = .next (serveSaveCatalogue l f (s.taking l rest)) :=
  congrArg _ (serve_admits ha serveSaveCatalogue)

theorem exec_restart (ha : s.Admits l .restart f rest) :
    exec (.restart l) s = .next (serveRestart l f (s.taking l rest)) :=
  congrArg _ (serve_admits ha serveRestart)

theorem busOf_eq_some {c : Byte} (h : b.val = c.toNat) : busOf c = some b := by
  rw [busOf, dif_pos (h ▸ b.isLt)]
  exact congrArg some (Fin.ext h.symm)

theorem busOf_eq_none {c : Byte} (h : 1 < c.toNat) : busOf c = none :=
  dif_neg (by omega)

/-! ### The queries (R26, R104, R121, R142) -/

theorem wordBytes_zero : wordBytes 0 = [0, 0] := by decide

theorem slotFlags_eq (upgrade warned inFlight : Bool) : slotFlags upgrade warned inFlight =
    (if upgrade then 1 else 0) ||| (if warned then 2 else 0) ||| (if inFlight then 4 else 0) := by
  cases upgrade <;> cases warned <;> cases inFlight <;> rfl

theorem slotReport_free (hb : (s.slot i).body = .free) : s.slotReport i =
    [0] ++ wordBytes (s.slot i).generation ++ [0, 0, 0, 0, 0, 0, 0, 0, 0, 0, 0] := by
  simp only [State.slotReport, hb]
  rfl

theorem slotReport_waiting {w : WaitingSlot} (hb : (s.slot i).body = .waiting w) : s.slotReport i =
    [1] ++ wordBytes (s.slot i).generation ++ [byteOf w.owner.val, byteOf w.target.val, w.mode.code] ++
      wordBytes (w.requestedTerm / 10) ++ [0, 0] ++ wordBytes ((w.waitDeadline - s.now) / 10) ++
      [0, 0] := by
  simp only [State.slotReport, hb]
  rfl

theorem slotReport_held {h : HeldSlot} (hb : (s.slot i).body = .held h) : s.slotReport i =
    [2] ++ wordBytes (s.slot i).generation ++ [byteOf h.owner.val, byteOf h.target.val, h.mode.code] ++
      wordBytes (h.requestedTerm / 10) ++ wordBytes ((h.termDeadline - s.now) / 10) ++
      (match h.upgrade with
        | some d => wordBytes ((d - s.now) / 10)
        | none => [0, 0]) ++
      [(if h.upgrade = none then 0 else 1) ||| (if h.lapseWarned then 2 else 0) |||
        (if h.inFlight = none then 0 else 4), 0] := by
  have hflags : slotFlags h.upgrade.isSome h.lapseWarned h.inFlight.isSome =
      (if h.upgrade = none then 0 else 1) ||| (if h.lapseWarned then 2 else 0) |||
        (if h.inFlight = none then 0 else 4) := by
    rw [slotFlags_eq]
    cases h.upgrade <;> cases h.inFlight <;> rfl
  simp only [State.slotReport, hb, hflags]
  cases h.upgrade with
  | none => simp only [wordBytes_zero]; rfl
  | some d => rfl

theorem slotReport_ending {e : EndingSlot} (hb : (s.slot i).body = .ending e) : s.slotReport i =
    [3] ++ wordBytes (s.slot i).generation ++
      [match e.owner with
        | some k => byteOf k.val
        | none => 4, byteOf e.target.val, e.mode.code, 0, 0, 0, 0, 0, 0,
        if e.inFlight = none then 0 else 4, e.cause.code] := by
  simp only [State.slotReport, hb]
  cases e.owner <;> cases e.inFlight <;> rfl

theorem linkReport_eq (s : State) (l k : Link) (rest : List Frame) : (s.taking l rest).linkReport k =
    [(s.link k).line.code] ++
      (match s.session k with
        | .closed => [0, 0, 0, 0, 0]
        | .opened key => 1 :: wordBytes key ++ [0, 0]
        | .suspended key d => 2 :: wordBytes key ++ wordBytes ((d - s.now) / 10)) ++
      [byteOf (slotIndices.countP fun i => decide ((s.slot i).body.owner? = some k)),
        byteOf (s.notice k).queue.length,
        byteOf (if k = l then rest else (s.link k).requestQueue).length,
        byteOf (s.link k).outbound.length,
        match (s.link k).pendingReject with
          | some (n, _) => byteOf n
          | none => 0] := by
  have hunit : ((s.taking l rest).link k).line = (s.link k).line ∧
      ((s.taking l rest).link k).requestQueue = (if k = l then rest else (s.link k).requestQueue) ∧
      ((s.taking l rest).link k).outbound = (s.link k).outbound ∧
      ((s.taking l rest).link k).pendingReject = (s.link k).pendingReject := by
    by_cases hk : k = l
    · subst hk
      simp [LinkUnit.taken]
    · simp [State.taking, hk, State.link_setLink_ne _ hk]
  obtain ⟨hline, hqueue, hout, hreject⟩ := hunit
  simp only [State.linkReport, hline, hqueue, hout, hreject, State.remainingGrace, State.taking_frame]
  cases s.session k <;> simp only [Session.keyValue, wordBytes_zero] <;> rfl

/-- Settles O35: the report of each query, by the record it is about. -/
theorem supervisorQueriesAnswer : Obligations.SupervisorQueriesAnswer := by
  intro s l f rest u left
  refine ⟨fun ha => ⟨fun hi => ?_, fun i hi => ?_⟩, fun ha => ⟨fun hb => ?_, fun b hb => ?_⟩,
    fun ha => ⟨fun hk => ?_, fun k hk => ?_⟩, fun ha => ?_⟩
  · rw [exec_querySlot ha, serveQuerySlot, slotOf_eq_none hi]
  · rw [exec_querySlot ha, serveQuerySlot, slotOf_eq_some_iff.mpr hi]
    refine congrArg _ (congrArg (u.answer l f.tag .ok) ?_)
    cases hb : (s.slot i).body with
    | free => exact slotReport_free (s := u) hb
    | waiting w => exact slotReport_waiting (s := u) hb
    | held h => exact slotReport_held (s := u) hb
    | ending e => exact slotReport_ending (s := u) hb
  · rw [exec_queryBus ha, serveQueryBus, busOf_eq_none hb]
  · intro answered
    have hreport : ∀ {active}, u.busReport b = _ ++ active → answered active := fun hr => by
      simp only [answered, exec_queryBus ha, serveQueryBus, busOf_eq_some hb]
      exact congrArg _ (congrArg (u.answer l f.tag .ok) hr)
    refine ⟨fun p r hw hr => hreport ?_, fun hn => hreport ?_⟩
    · simp only [State.busReport, u, State.taking_frame, hw, hr]
    · cases hw : (s.engine b).work with
      | record p => exact absurd hw (hn p)
      | none | load | restore => simp only [State.busReport, u, State.taking_frame, hw]
  · rw [exec_queryLink ha, serveQueryLink, linkOf_eq_none hk]
  · rw [exec_queryLink ha, serveQueryLink, linkOf_eq_some hk]
    exact congrArg _ (congrArg (u.answer l f.tag .ok) (linkReport_eq s l k rest))
  · exact exec_queryStart ha

end Sys2Proof.Machine

/-! DROP-TARGET (R58 to R60): by the state of the entry (O24), and what it leaves of the slots, by the
slots in turn under the law of the transaction unit (O25). -/

namespace Sys2Proof.Machine

variable {s v : State} {l : Link} {f : Frame} {rest : List Frame} {i j : SlotIx} {t : EntryIx} {h : HeldSlot}
  {W : Prop} {p : PoolIx} {r : Record}

/-! ### By the state of the entry (R58, R59) -/

theorem dropCount_eq (s : State) (t : EntryIx) : s.dropCount t = slotIndices.countP fun i =>
    decide ((s.slot i).body.target? = some t ∧ (s.slot i).body.stateName ≠ .ending) := by
  refine congrArg (slotIndices.countP ·) (funext fun i => ?_)
  cases (s.slot i).body <;> simp [SlotBody.target?, SlotBody.stateName]

theorem dropSlot_other (hi : (s.slot i).body.target? ≠ some t ∨ ∃ e, (s.slot i).body = .ending e) :
    State.dropSlot t s i = s := by
  rcases hi with ht | ⟨e, he⟩
  · cases hb : (s.slot i).body with
    | waiting w => simp_all [State.dropSlot, SlotBody.target?]
    | held h => simp_all [State.dropSlot, SlotBody.target?]
    | free | ending => simp only [State.dropSlot, hb]
  · simp only [State.dropSlot, he]

theorem dropSlot_waiting {w : WaitingSlot} (hb : (s.slot i).body = .waiting w) (ht : w.target = t) :
    State.dropSlot t s i = (s.vacate i t).offerNotice w.owner
      ⟨s.slotSubject i, .waitEnded .dropped false w.mode⟩ := by
  simp only [State.dropSlot, hb, ht, if_true]

theorem dropSlot_held (hb : (s.slot i).body = .held h) (ht : h.target = t) :
    State.dropSlot t s i = s.endLease i h dropEnd := by
  simp only [State.dropSlot, hb, ht, if_true]

/-- Settles O24: the entry's state decides, and each slot is treated by its own. -/
theorem dropTargetByState : Obligations.DropTargetByState := by
  refine ⟨fun s l f rest ha => ?_, fun s t i => ⟨fun w hb ht => dropSlot_waiting hb ht,
    fun h hb ht => dropSlot_held hb ht, dropSlot_other⟩⟩
  intro u
  refine ⟨fun ht => ?_, fun t ht => ?_⟩
  · rw [exec_dropTarget ha, serveDropTarget, entryOf_eq_none ht]
  have hentry : u.entry t = s.entry t := rfl
  refine ⟨fun hb => ?_, fun g hb => ?_, fun g hb => ?_⟩
  · simp only [exec_dropTarget ha, serveDropTarget, entryOf_eq_some ht, ← hentry] at hb ⊢
    rw [hb]
  · simp only [exec_dropTarget ha, serveDropTarget, entryOf_eq_some ht, ← hentry] at hb ⊢
    rw [hb]
  · simp only [exec_dropTarget ha, serveDropTarget, entryOf_eq_some ht, ← hentry] at hb ⊢
    rw [hb, ← dropCount_eq, State.taking_link]
    rfl

/-! ### The end of one lease, under the law of the transaction unit -/

/-- Routing a completion leaves every other record and the rights. -/
theorem route_others (s : State) (p : PoolIx) (r : Record) (d : Bool) :
    (∀ q, q ≠ p → (s.route p r d).record q = s.record q) ∧
      ∀ k, (s.route p r d).rightsOf k = s.rightsOf k := by
  have hfree : ∀ v : State, (∀ q, q ≠ p → (v.freeRecord p).record q = v.record q) ∧
      ∀ k, (v.freeRecord p).rightsOf k = v.rightsOf k := fun v =>
    ⟨fun q hq => by simp [State.freeRecord, hq],
      fun k => by simp [State.freeRecord]⟩
  unfold State.route State.offerCompletion
  split
  · exact hfree s
  split
  · exact hfree s
  split
  · split
    · simpa [State.pushOutbound] using hfree (s.pushOutbound _ _)
    · simp
  · simpa using hfree (s.offerNotice _ _)
  · exact hfree s

/-- A completed record of a HELD slot leaves nothing in flight there, and other slots as they were. -/
theorem complete_of_held {i : SlotIx} (hr : s.record p = some r)
    (hh : r.handle = some ⟨i, (s.slot i).generation⟩) (hb : (s.slot i).body = .held h)
    (status : Status) (n : Nat) : s.complete p status n =
      ((s.setRecord p (some (r.completed status n))).setBody i (.held { h with inFlight := none })).route
        p (r.completed status n) false := by
  simp only [complete_of_handle hr hh, State.clearFlight, State.detached, hb, State.setRecord_frame,
    if_true]

/-- A change of one slot that leaves the other slots and their records, the entries but one target's
queue, the engines, the sessions and the rights. -/
structure OneSlot (i : SlotIx) (t : EntryIx) (s v : State) : Prop where
  generation : (v.slot i).generation = (s.slot i).generation
  slot : ∀ j, j ≠ i → v.slot j = s.slot j
  record : ∀ j, j ≠ i → ∀ p, (s.slot j).body.inFlight? = some p → v.record p = s.record p
  entry : ∀ x, x ≠ t → v.entry x = s.entry x
  engine : ∀ b, v.engine b = s.engine b
  session : ∀ k, v.session k = s.session k
  rights : ∀ k, v.rightsOf k = s.rightsOf k

theorem OneSlot.refl (i : SlotIx) (t : EntryIx) (s : State) : OneSlot i t s s :=
  ⟨rfl, fun _ _ => rfl, fun _ _ _ _ => rfl, fun _ _ => rfl, fun _ => rfl, fun _ => rfl, fun _ => rfl⟩

theorem OneSlot.trans {u : State} (h : OneSlot i t s v) (g : OneSlot i t v u) : OneSlot i t s u where
  generation := g.generation.trans h.generation
  slot j hj := (g.slot j hj).trans (h.slot j hj)
  record j hj p hp := (g.record j hj p (by rw [h.slot j hj]; exact hp)).trans (h.record j hj p hp)
  entry x hx := (g.entry x hx).trans (h.entry x hx)
  engine b := (g.engine b).trans (h.engine b)
  session k := (g.session k).trans (h.session k)
  rights k := (g.rights k).trans (h.rights k)

theorem oneSlot_vacate (s : State) (i : SlotIx) (t : EntryIx) : OneSlot i t s (s.vacate i t) := by
  constructor <;> intros <;>
    simp [State.vacate, State.leaveQueue, State.setWaitQueue_eq, State.freeSlot_eq, *]

theorem oneSlot_offerNotice (s : State) (i : SlotIx) (t : EntryIx) (l : Link) (n : Notice) :
    OneSlot i t s (s.offerNotice l n) := by
  constructor <;> intros <;> simp

theorem oneSlot_route {d : Bool} (hp : ∀ j, j ≠ i → ∀ q, (s.slot j).body.inFlight? = some q → q ≠ p) :
    OneSlot i t s (s.route p r d) := by
  obtain ⟨-, -, -, hslot, hentry, hengine, hsession, -⟩ := route_frame s p r d
  obtain ⟨hrecord, hrights⟩ := route_others s p r d
  exact ⟨by rw [hslot], fun j _ => hslot j, fun j hj q hq => hrecord q (hp j hj q hq),
    fun x _ => hentry x, hengine, hsession, hrights⟩

/-- Two slots have no record in common. -/
theorem TxLaw.inFlight_ne (hx : TxLaw W none [] s) (hij : j ≠ i) {q : PoolIx}
    (hi : (s.slot i).body.inFlight? = some p) (hj : (s.slot j).body.inFlight? = some q) : q ≠ p := by
  rintro rfl
  obtain ⟨r, hr, -, hh, -⟩ := hx.flight.1 i q hi
  obtain ⟨r', hr', -, hh', -⟩ := hx.flight.1 j q hj
  cases hr.symm.trans hr'
  exact hij (congrArg Handle.slot (Option.some.inj (hh'.symm.trans hh)))

theorem TxLaw.oneSlot_withdraw (hx : TxLaw W none [] s) (hb : (s.slot i).body = .held h)
    (hp : h.inFlight = some p) (t : EntryIx) (st : Status) : OneSlot i t s (s.withdraw p st) := by
  have hi : (s.slot i).body.inFlight? = some p := by rw [hb]; exact hp
  obtain ⟨r, hr, -, hh, -⟩ := hx.flight.1 i p hi
  have hne : ∀ j, j ≠ i → ∀ q, (s.slot j).body.inFlight? = some q → q ≠ p :=
    fun j hj q hq => hx.inFlight_ne hj hi hq
  rw [withdraw_eq hr, complete_of_held (s := s.leaveBusQueue r.bus p) hr hh hb]
  refine OneSlot.trans (v := (((s.leaveBusQueue r.bus p).setRecord p
    (some (r.completed st 0))).setBody i (.held { h with inFlight := none }))) ?_ ?_
  · refine ⟨?_, fun j hj => ?_, fun j hj q hq => ?_, fun x _ => ?_, fun b => ?_, fun k => ?_, fun k => ?_⟩
    case refine_3 => simp [State.setBody_eq, hne j hj q hq]
    all_goals simp [State.setBody_eq, *]
  · refine oneSlot_route fun j hj q hq => hne j hj q ?_
    simpa [State.setBody_eq, hj] using hq

theorem TxLaw.oneSlot_becomeEnding (hx : TxLaw W none [] s) (hb : (s.slot i).body = .held h)
    (hp : h.inFlight = some p) (hr : s.record p = some r) (owner : Option Link) (cause : EndCause) :
    OneSlot i h.target s (s.becomeEnding i h p owner cause) := by
  rw [becomeEnding_eq hp hr]
  refine ⟨?_, fun j hj => ?_, fun j hj q hq => ?_, fun x hne => ?_, fun b => ?_, fun k => ?_, fun k => ?_⟩
  case refine_3 =>
    have hne := hx.inFlight_ne hj (by rw [hb]; exact hp) hq
    simp [State.leaveQueue, State.setWaitQueue_eq, State.setBody_eq, hne]
  all_goals simp [State.leaveQueue, State.setWaitQueue_eq, State.setBody_eq, *]

/-- What is left of the slot of a lease that ends with a cause (R14, R21, R59). -/
def State.endedBody (s : State) (h : HeldSlot) (cause : EndCause) : SlotBody :=
  match s.flight h.inFlight with
  | .active _ => .ending ⟨some h.owner, h.target, h.mode, h.inFlight, cause⟩
  | _ => .free

theorem TxLaw.oneSlot_endLease (hx : TxLaw W none [] s) (hb : (s.slot i).body = .held h) (e : LeaseEnd) :
    OneSlot i h.target s (s.endLease i h e) ∧
      ((s.endLease i h e).slot i).body = s.endedBody h e.cause := by
  have hin := hx.flight.inFlight hb
  have hfree : ∀ v : State, ((v.vacate i h.target).slot i).body = .free := fun v => by
    simp [State.vacate, State.freeSlot_eq]
  unfold State.endLease State.endedBody
  cases hf : s.flight h.inFlight with
  | none =>
    exact ⟨(oneSlot_vacate s i h.target).trans (oneSlot_offerNotice _ i _ _ _), by simp [hfree]⟩
  | queued p =>
    rw [hf] at hin
    cases hin with
    | queued hp hr hs =>
    exact ⟨((hx.oneSlot_withdraw hb hp _ _).trans (oneSlot_vacate _ i h.target)).trans
      (oneSlot_offerNotice _ i _ _ _), by simp [hfree]⟩
  | active p =>
    rw [hf] at hin
    cases hin with
    | active hp hr hs =>
    refine ⟨(hx.oneSlot_becomeEnding hb hp hr _ _).trans (oneSlot_offerNotice _ i _ _ _), ?_⟩
    simp [becomeEnding_eq hp hr, State.setBody_eq, hp]

/-! ### The slots of a dropped entry (R59, R60) -/

/-- R59: what dropping its entry leaves of a slot. -/
def State.droppedBody (s : State) (t : EntryIx) (b : SlotBody) : SlotBody :=
  match b with
  | .ending e => .ending e
  | .held h =>
    match s.flight h.inFlight with
    | .active _ => .ending ⟨some h.owner, t, h.mode, h.inFlight, .dropped⟩
    | _ => .free
  | _ => .free

theorem TxLaw.oneSlot_dropSlot (hx : TxLaw W none [] s) (t : EntryIx) (i : SlotIx) :
    OneSlot i t s (State.dropSlot t s i) ∧
      ((s.slot i).body.target? ≠ some t → State.dropSlot t s i = s) ∧
      ((s.slot i).body.target? = some t →
        ((State.dropSlot t s i).slot i).body = s.droppedBody t (s.slot i).body) := by
  by_cases ht : (s.slot i).body.target? = some t
  case neg =>
    rw [dropSlot_other (.inl ht)]
    exact ⟨.refl i t s, fun _ => rfl, fun h => absurd h ht⟩
  suffices h : OneSlot i t s (State.dropSlot t s i) ∧
      ((State.dropSlot t s i).slot i).body = s.droppedBody t (s.slot i).body from
    ⟨h.1, fun hn => absurd ht hn, fun _ => h.2⟩
  cases hb : (s.slot i).body with
  | free => simp [hb, SlotBody.target?] at ht
  | waiting w =>
    rw [dropSlot_waiting hb (by simpa [hb, SlotBody.target?] using ht)]
    exact ⟨(oneSlot_vacate s i t).trans (oneSlot_offerNotice _ i _ _ _),
      by simp [State.vacate, State.freeSlot_eq, State.droppedBody]⟩
  | held h =>
    obtain rfl : h.target = t := by simpa [hb, SlotBody.target?] using ht
    rw [dropSlot_held hb rfl]
    exact hx.oneSlot_endLease hb dropEnd
  | ending e =>
    rw [dropSlot_other (.inr ⟨e, hb⟩)]
    exact ⟨.refl i t s, hb⟩

/-- What treating some slots of an entry leaves (R59). -/
structure Dropped (t : EntryIx) (is : List SlotIx) (s v : State) : Prop where
  generation : ∀ i, (v.slot i).generation = (s.slot i).generation
  kept : ∀ i, i ∉ is ∨ (s.slot i).body.target? ≠ some t → v.slot i = s.slot i
  treated : ∀ i ∈ is, (s.slot i).body.target? = some t →
    (v.slot i).body = s.droppedBody t (s.slot i).body
  entry : ∀ x, x ≠ t → v.entry x = s.entry x
  engine : ∀ b, v.engine b = s.engine b
  session : ∀ k, v.session k = s.session k
  rights : ∀ k, v.rightsOf k = s.rightsOf k

/-- A slot whose record is as it was comes out as it would have before. -/
theorem OneSlot.droppedBody (h : OneSlot i t s v) (hj : j ≠ i) :
    v.droppedBody t (s.slot j).body = s.droppedBody t (s.slot j).body := by
  cases hb : (s.slot j).body with
  | held g =>
    have hflight : v.flight g.inFlight = s.flight g.inFlight := by
      cases hp : g.inFlight with
      | none => rfl
      | some p => simp only [State.flight, h.record j hj p (by rw [hb]; exact hp)]
    simp only [State.droppedBody, hflight]
  | free | waiting | ending => rfl

theorem TxLaw.dropped (is : List SlotIx) (hn : is.Nodup) (hx : TxLaw W none [] s) :
    Dropped t is s (is.foldl (State.dropSlot t) s) := by
  induction is generalizing s with
  | nil =>
    exact ⟨fun _ => rfl, fun _ _ => rfl, nofun, fun _ _ => rfl, fun _ => rfl, fun _ => rfl, fun _ => rfl⟩
  | cons i is ih =>
    obtain ⟨hi, hn⟩ := List.nodup_cons.mp hn
    obtain ⟨hone, hoff, hon⟩ := hx.oneSlot_dropSlot t i
    have hrest := ih hn (hx.dropSlot t i)
    refine ⟨fun j => (hrest.generation j).trans ?_, fun j hj => ?_, fun j hj ht => ?_,
      fun x hxt => (hrest.entry x hxt).trans (hone.entry x hxt),
      fun b => (hrest.engine b).trans (hone.engine b), fun k => (hrest.session k).trans (hone.session k),
      fun k => (hrest.rights k).trans (hone.rights k)⟩
    · by_cases hji : j = i
      · exact hji ▸ hone.generation
      · rw [hone.slot j hji]
    · by_cases hji : j = i
      · subst hji
        have hsame := hoff (hj.resolve_left fun h => h List.mem_cons_self)
        rw [List.foldl_cons, hrest.kept j (.inl hi), hsame]
      · rw [List.foldl_cons, hrest.kept j ?_, hone.slot j hji]
        rw [hone.slot j hji]
        exact hj.imp_left fun h hm => h (List.mem_cons_of_mem _ hm)
    · rcases List.mem_cons.mp hj with rfl | hj
      · rw [List.foldl_cons, hrest.kept j (.inl hi), hon ht]
      · have hji : j ≠ i := fun h => hi (h ▸ hj)
        have hsame := hone.slot j hji
        rw [List.foldl_cons, hrest.treated j hj (by rw [hsame]; exact ht), hsame, hone.droppedBody hji]

/-- Settles O25: the slots in turn, then the entry by what still refers to it. -/
theorem dropTargetLeaves : Obligations.DropTargetLeaves := by
  intro s t g hx hb v
  have hd := (txLaw_of_transactionLaw hx True).dropped (t := t) slotIndices (List.nodup_finRange _)
  have hv : v = (slotIndices.foldl (State.dropSlot t) s).retire t g := rfl
  generalize slotIndices.foldl (State.dropSlot t) s = w at hd hv
  have hslot : ∀ i, v.slot i = w.slot i := fun i => by rw [hv]; rfl
  have hentry : v.entry t = ⟨if w.targetInUse t then .retiring g else .absent, []⟩ := by
    rw [hv]
    exact State.entry_setEntry_self ..
  refine ⟨fun i hi => (hslot i).trans (hd.kept i (.inr hi)), fun i hi => ⟨?_, ?_⟩, fun x hxt => ?_, ?_,
    engines_ext fun b => ?_, sessions_ext fun k => ?_, rights_ext fun k => ?_⟩
  · rw [hslot, hd.generation]
  · rw [hslot, hd.treated i (List.mem_finRange i) hi]
    cases (s.slot i).body <;> rfl
  · rw [← hd.entry x hxt, hv]
    exact State.entry_setEntry_ne _ hxt _
  · simp only [hentry, targetInUse_iff, hslot]
  · rw [hv, ← hd.engine b]
    rfl
  · rw [hv, ← hd.session k]
    rfl
  · rw [hv, ← hd.rights k]
    rfl

end Sys2Proof.Machine

/-! SAVE-CATALOGUE and the image it builds (R143, O41), RESTART and the end of the drain (R147, R148, O42),
cold start (R135, O38), and the blocks of the image (R140, O40). -/

namespace Sys2Proof.Machine

variable {s v : State} {l k : Link} {f : Frame} {rest : List Frame} {i : SlotIx} {t : EntryIx} {b : BusIx}
  {p : PoolIx} {lines : LineLevels} {j : LoadJob}

/-! ### The image (R143, Table 9-9) -/

theorem length_imageBlock (kind : Byte) (body : List Byte) :
    (imageBlock kind body).length = body.length + 4 := by
  simp [imageBlock, crcBytes, wordBytes]

/-- R143: a TARGET block of 19 bytes for each PRESENT entry. -/
theorem length_savedTargets (s : State) (ts : List EntryIx) : (ts.flatMap s.savedTarget).length =
    19 * ts.countP (fun t => (s.entry t).body.code == 1) := by
  induction ts with
  | nil => rfl
  | cons t ts ih =>
    rw [List.flatMap_cons, List.length_append, ih, List.countP_cons, State.savedTarget]
    cases hb : (s.entry t).body with
    | present g =>
      simp [targetBlock, length_imageBlock, fieldBytes, wordBytes, EntryBody.code]
      omega
    | absent | retiring => simp [EntryBody.code]

theorem length_rightsBlock (l : Link) (r : Rights) : (rightsBlock l r).length = 10 := by
  simp [rightsBlock, length_imageBlock, rightsBytes, wordBytes]

theorem length_buildImage (s : State) : s.buildImage.length =
    43 + 19 * entryIndices.countP (fun t => (s.entry t).body.code == 1) := by
  have hrights : (linkIndices.flatMap fun l => rightsBlock l (s.rightsOf l)).length = 40 := by
    simp [List.length_flatMap, length_rightsBlock, linkIndices]
  simp only [State.buildImage, List.length_append, length_savedTargets, hrights, signature,
    List.length_cons, List.length_nil]
  omega

theorem busFaulted_iff : s.busFaulted b = true ↔ (s.engine b).state = .fault := by
  simp [State.busFaulted]

/-- Settles O41: the checks in their order, and the image built from the catalogue as it stands. -/
theorem saveByChecks : Obligations.SaveByChecks := by
  intro s l f rest ha u refused full later image
  have himage : image = s.buildImage := by
    simp only [image, State.buildImage]
    rfl
  have hfault : u.busFaulted 0 = true ↔ (s.engine 0).state = .fault := busFaulted_iff
  refine ⟨fun hs => ?_, fun hs hf => ?_, fun hs hf hroom => ?_, fun hs hf hroom => ⟨?_, ?_⟩⟩
  · refine (exec_saveCatalogue ha).trans (congrArg _ ?_)
    rw [serveSaveCatalogue, if_pos (by simpa [u, Option.isSome_iff_ne_none] using hs)]
  · refine (exec_saveCatalogue ha).trans (congrArg _ ?_)
    rw [serveSaveCatalogue, if_neg (by simp [hs]), if_pos (hfault.mpr hf)]
  · refine (exec_saveCatalogue ha).trans (congrArg _ ?_)
    rw [serveSaveCatalogue, if_neg (by simp [hs]), if_neg (mt hfault.mp hf),
      roomFor_eq_none (s := u) |>.mpr hroom]
  · rw [himage, length_buildImage]
  · obtain ⟨p, hp⟩ := Option.ne_none_iff_exists'.mp (mt (roomFor_eq_none (s := u)).mp hroom)
    refine ⟨p, (roomFor_some hp).2, (exec_saveCatalogue ha).trans (congrArg _ ?_)⟩
    rw [serveSaveCatalogue, if_neg (by simp [hs]), if_neg (mt hfault.mp hf), hp, himage]
    rfl

/-! ### A load operation is handed to B0 (R88, R138) -/

theorem takeLoadOperation_idle (he : (s.engine 0).state = .idle) (hj : s.load = some j) :
    s.takeLoadOperation lines = s.setEngine 0 ⟨engineAfterCheck .operation
      (readPlan storeSnapshot j.stage.extent.1 j.stage.extent.2) lines, (s.engine 0).lastFault, .load, 0,
        (s.engine 0).given⟩ := by
  have hplan : ∀ e : Engine, e.work = .load → (s.setEngine 0 e).planFor 0 .operation =
      readPlan storeSnapshot j.stage.extent.1 j.stage.extent.2 := fun e hw => by
    simp [State.planFor, hj, hw]
  simp only [State.takeLoadOperation, he, beginOperation_eq_setEngine, hplan]
  simp

theorem takeLoadOperation_fault (he : (s.engine 0).state = .fault) :
    s.takeLoadOperation lines = s.loadFailed .busFault := by
  simp only [State.takeLoadOperation, he]

/-! ### RESTART and the drain (R147, R148) -/

theorem scopeOf_eq {c : Byte} : scopeOf c = if 1 < c.toNat then none
    else some (if c = 0 then .keep else .reload) := by
  unfold scopeOf
  by_cases h0 : c = 0
  · subst h0
    rfl
  by_cases h1 : c = 1
  · subst h1
    rfl
  · have hlt : 1 < c.toNat := by
      have hne0 : c.toNat ≠ 0 := fun h => h0 (BitVec.eq_of_toNat_eq h)
      have hne1 : c.toNat ≠ 1 := fun h => h1 (BitVec.eq_of_toNat_eq h)
      omega
    rw [if_neg h0, if_neg h1, if_pos hlt]

theorem allFree_iff : s.allFree = true ↔ (∀ i, (s.slot i).body = .free) ∧ ∀ p, s.record p = none := by
  simp [State.allFree, slotIndices, poolIndices]

theorem isClosed_iff {x : Session} : x.isClosed = true ↔ x = .closed := by
  cases x <;> simp [Session.isClosed]

theorem emptyCatalogue_rights (sup : Option Link) : allDefaultRights sup = Vector.ofFn fun l =>
    if sup = some l then ⟨0xFF, 0xFF, 8, 0⟩ else ⟨0, 0, 4, 0⟩ := by
  refine Vector.ext fun k hk => ?_
  rw [Vector.getElem_ofFn]
  exact allDefaultRights_get sup ⟨k, hk⟩

/-- Settles O42: the request by its scope, a teardown taken, and the end of the drain by the scope. -/
theorem restartAndDrain : Obligations.RestartAndDrain := by
  refine ⟨fun s l f rest ha => ?_, fun s l lines job hj hl => ?_, fun s lines job hj => ?_⟩
  · intro u
    refine (exec_restart ha).trans (congrArg _ ?_)
    rw [serveRestart, scopeOf_eq]
    by_cases hscope : 1 < (byteAt f.body 0).toNat
    · rw [if_pos hscope, if_pos hscope]
    rw [if_neg hscope, if_neg hscope]
    by_cases hsave : s.saveJob = none
    · simp only [State.taking_frame, hsave]
      rfl
    · simp only [State.taking_frame, Option.isSome_iff_ne_none.mpr hsave, if_true, ne_eq, hsave,
        not_false_eq_true]
      rfl
  · refine congrArg Host.Outcome.next (?_ : s.restartTears l lines = _)
    simp only [State.restartTears, hj, List.contains_iff_mem.mpr hl, if_true, isClosed_iff]
  · intro drained
    have hfree : drained ↔ job.teardowns = [] ∧ s.allFree = true := by rw [allFree_iff]
    obtain ⟨scope, teardowns⟩ := job
    refine ⟨fun hn => ?_, fun hd hk => ?_, fun hd hk => ?_⟩
    · rw [hfree, not_and] at hn
      cases teardowns with
      | nil => simp only [State.checkDrain, hj, hn rfl, Bool.false_eq_true, if_false]
      | cons => simp only [State.checkDrain, hj]
    · obtain ⟨rfl, hall⟩ := hfree.mp hd
      subst hk
      simp only [State.checkDrain, hj, hall, if_true]
    · obtain ⟨rfl, hall⟩ := hfree.mp hd
      subst hk
      intro v
      have hv : (((s.setRestart none).emptyCatalogue).setReport emptyReport).setLoad (some firstLoad) =
          v := by
        simp only [State.emptyCatalogue, emptyCatalogue_rights]
        rfl
      have hdrain : s.checkDrain lines = v.takeLoadOperation lines := by
        rw [← hv]
        simp only [State.checkDrain, hj, hall, if_true, State.beginLoad]
      have hload : v.load = some firstLoad := rfl
      have hreport : v.report = emptyReport := rfl
      have hengine : v.engine 0 = s.engine 0 := rfl
      clear_value v
      refine ⟨fun he => ?_, fun he => ?_⟩
      · rw [hdrain, takeLoadOperation_idle (by rw [hengine]; exact he) hload, hengine]
        rfl
      · rw [hdrain, takeLoadOperation_fault (by rw [hengine]; exact he)]
        simp only [State.loadFailed, hload, firstLoad, State.endLoad, hreport]
        rfl

/-! ### Cold start (R135, R136, R106) -/

theorem strapSupervisor_eq (supen : Bool) (supsel : BitVec 2) : strapSupervisor supen supsel =
    if supen then some (Fin.ofNat 4 supsel.toNat) else none := by
  cases supen
  · rfl
  · exact congrArg some (Fin.ext (Nat.mod_eq_of_lt supsel.isLt).symm)

theorem firstLoad_plan : readPlan storeSnapshot 0 2 = ⟨1, [.start, .send 0xA6, .send 0, .send 0,
    .repeatedStart, .send 0xA7, .receive true, .receive false, .stop]⟩ := by
  decide

/-- Settles O38: the cold start values, with the first load operation taken. -/
theorem coldStartValues : Obligations.ColdStartValues := by
  intro s supen supsel rate lines
  obtain ⟨hslot, hentry, hrights, hrecord, hdone, hqueue, hengine, hsession, hnotice, hlink⟩ :=
    coldState_arrays s.pending s.now s.freeCount (strapSupervisor supen supsel) rate
  refine ⟨_, congrArg Host.Outcome.next (coldStart_eq s supen supsel rate lines), rfl, rfl, rfl,
    strapSupervisor_eq supen supsel, rfl, rfl, rfl, rfl, rfl, rfl, fun i => ?_, fun e => ?_, fun l => ?_,
    fun p => ?_, fun b => ?_, fun l => ?_, fun l => ?_, fun l => ?_, fun l => ?_, ?_, ?_⟩
  · simp [hslot]
  · simp [hentry]
  · simp only [State.setEngine_frame, hrights]
    rfl
  · simp [hrecord]
  · simp [hqueue]
  · simp [hdone]
  · simp [hsession]
  · simp [hnotice]
  · simp [hlink, coldLink]
  · simp [hengine, coldEngine]
  · simp [firstLoad_plan]

/-! ### The blocks of the image (R140) -/

section Block

variable {kind len : Byte} {body crc : List Byte} {offset : Nat}

/-- A byte of the body stands two places on in the block. -/
theorem byteAt_block {n : Nat} (hn : n < body.length) :
    byteAt (kind :: len :: body ++ crc) (n + 2) = byteAt body n := by
  simp [byteAt, List.getD_eq_getElem?_getD, List.getElem?_append_left hn]

theorem fieldsAt_block (hb : body.length = 15) :
    fieldsAt (kind :: len :: body ++ crc) 3 = fieldsAt body 1 := by
  simp (disch := omega) only [fieldsAt, wordAt, Nat.reduceAdd, byteAt_block]

theorem rightsAt_block (hb : body.length = 6) :
    rightsAt (kind :: len :: body ++ crc) 3 = rightsAt body 1 := by
  simp (disch := omega) only [rightsAt, wordAt, Nat.reduceAdd, byteAt_block]

/-- R140: the tests of a block, its CRC first. -/
theorem judgeBlock_eq (hcrc : crc.length = 2) : s.judgeBlock j (kind :: len :: body ++ crc) =
    if crc ≠ crcBytes (kind :: len :: body) then .defect .badcheck
    else if kind = 1 ∧ len = 15 then s.judgeTarget j (kind :: len :: body ++ crc)
    else if kind = 2 ∧ len = 6 then judgeRights j (kind :: len :: body ++ crc)
    else .defect .unknown := by
  have hlen : (kind :: len :: body ++ crc).length - 2 = (kind :: len :: body).length := by simp [hcrc]
  rw [State.judgeBlock, hlen, List.take_left, List.drop_left]
  rfl

theorem classifyBlock_defect {block : List Byte} {reason : DefectReason}
    (h : s.judgeBlock j block = .defect reason) :
    s.classifyBlock j offset block = s.setReport { s.report with
      defects := min (s.report.defects + 1) 255
      firstOffset := if s.report.defects = 0 then offset else s.report.firstOffset
      firstReason := if s.report.defects = 0 then reason else s.report.firstReason } := by
  simp only [State.classifyBlock, h]
  rfl

theorem classifyBlock_target {block : List Byte} {fields : TargetFields}
    (h : s.judgeBlock j block = .target t fields) : s.classifyBlock j offset block =
      ((s.setEntry t ⟨.present fields, []⟩).setLoad (some { j with targets := t :: j.targets })).setReport
        { s.report with targets := s.report.targets + 1 } := by
  simp only [State.classifyBlock, h]
  rfl

theorem classifyBlock_rights {block : List Byte} {r : Rights}
    (h : s.judgeBlock j block = .rights l r) : s.classifyBlock j offset block =
      ((s.setRights l r).setLoad (some { j with rights := l :: j.rights })).setReport
        { s.report with rights := s.report.rights + 1 } := by
  simp only [State.classifyBlock, h]

/-- R140, tests 3 to 5. -/
theorem judgeTarget_eq (hb : body.length = 15) (ht : entryOf (byteAt body 0) = some t) :
    s.judgeTarget j (kind :: len :: body ++ crc) =
      if (fieldsAt body 1).valid = false then .defect .invalid
      else if t ∈ j.targets then .defect .duplicate
      else if s.clashes t (fieldsAt body 1) then .defect .invalid
      else .target t (fieldsAt body 1) := by
  have hindex : byteAt (kind :: len :: body ++ crc) 2 = byteAt body 0 := byteAt_block (by omega)
  rw [State.judgeTarget, hindex, ht, fieldsAt_block hb]
  simp

theorem judgeRights_eq (hb : body.length = 6) (hl : linkOf (byteAt body 0) = some l) :
    judgeRights j (kind :: len :: body ++ crc) =
      if (rightsAt body 1).valid = false then .defect .invalid
      else if l ∈ j.rights then .defect .duplicate
      else .rights l (rightsAt body 1) := by
  have hindex : byteAt (kind :: len :: body ++ crc) 2 = byteAt body 0 := byteAt_block (by omega)
  rw [judgeRights, hindex, hl, rightsAt_block hb]
  simp

/-- R140: a TARGET block of an index that is no entry's, or of invalid fields. -/
theorem judgeTarget_invalid (hb : body.length = 15)
    (h : 31 < (byteAt body 0).toNat ∨ (fieldsAt body 1).valid = false) :
    s.judgeTarget j (kind :: len :: body ++ crc) = .defect .invalid := by
  by_cases hi : 31 < (byteAt body 0).toNat
  · have hindex : byteAt (kind :: len :: body ++ crc) 2 = byteAt body 0 := byteAt_block (by omega)
    rw [State.judgeTarget, hindex, entryOf_eq_none hi]
  · rw [judgeTarget_eq hb (entryOf_eq_some (t := ⟨(byteAt body 0).toNat, by omega⟩) rfl),
      if_pos (h.resolve_left hi)]

theorem judgeRights_invalid (hb : body.length = 6)
    (h : 3 < (byteAt body 0).toNat ∨ (rightsAt body 1).valid = false) :
    judgeRights j (kind :: len :: body ++ crc) = .defect .invalid := by
  by_cases hi : 3 < (byteAt body 0).toNat
  · have hindex : byteAt (kind :: len :: body ++ crc) 2 = byteAt body 0 := byteAt_block (by omega)
    rw [judgeRights, hindex, linkOf_eq_none hi]
  · rw [judgeRights_eq hb (linkOf_eq_some (k := ⟨(byteAt body 0).toNat, by omega⟩) rfl),
      if_pos (h.resolve_left hi)]

end Block

/-- Settles O40: the tests in their order. -/
theorem blockClassified : Obligations.BlockClassified := by
  intro s j offset kind len body crc hbody hcrc block index fields rights defect good clash
  have hjudge : s.judgeBlock j block = _ := judgeBlock_eq hcrc
  have hdefect : ∀ {reason}, s.judgeBlock j block = .defect reason → defect reason :=
    classifyBlock_defect
  refine ⟨fun hg => hdefect ?_, fun hg hk1 hk2 => hdefect ?_, fun hg hk hlen => ?_, fun hg hk hlen => ?_⟩
  · rw [hjudge, if_pos hg]
  · rw [hjudge, if_neg (not_not.mpr hg), if_neg hk1, if_neg hk2]
  · have hb : body.length = 15 := by rw [hbody, hlen]; rfl
    rw [if_neg (not_not.mpr hg), if_pos ⟨hk, hlen⟩] at hjudge
    refine ⟨fun h => hdefect (hjudge.trans (judgeTarget_invalid hb h)), fun t ht hv => ?_⟩
    rw [judgeTarget_eq hb (entryOf_eq_some ht), if_neg (by simpa using hv)] at hjudge
    have hclash : s.clashes t fields = true ↔ clash := by
      rw [clashes_iff]
      exact exists₂_congr fun x g => and_congr_left' (by rw [← ht, ne_eq, Fin.ext_iff])
    refine ⟨fun hm => hdefect ?_, fun hm hc => hdefect ?_, fun hm hc => classifyBlock_target ?_⟩
    · rw [hjudge, if_pos hm]
    · rw [hjudge, if_neg hm, if_pos (hclash.mpr hc)]
    · rw [hjudge, if_neg hm, if_neg (mt hclash.mp hc)]
  · have hb : body.length = 6 := by rw [hbody, hlen]; rfl
    rw [if_neg (not_not.mpr hg), if_neg (by simp [hk]), if_pos ⟨hk, hlen⟩] at hjudge
    refine ⟨fun h => hdefect (hjudge.trans (judgeRights_invalid hb (h.imp_right fun hr => ?_))),
      fun l hl hq hq' hgrace => ?_⟩
    · rw [← Bool.not_eq_true, Rights.valid_iff]
      have hr : (rightsAt body 1).quota = 0 ∨ 24 < (rightsAt body 1).quota ∨
        6000 < (rightsAt body 1).grace := hr
      omega
    · have hv : rights.valid = true := Rights.valid_iff.mpr ⟨hq, hq', hgrace⟩
      rw [judgeRights_eq hb (linkOf_eq_some hl), if_neg (by simpa using hv)] at hjudge
      refine ⟨fun hm => hdefect ?_, fun hm => classifyBlock_rights ?_⟩
      · rw [hjudge, if_pos hm]
      · rw [hjudge, if_neg hm]

end Sys2Proof.Machine

/-! The link units: BREAK and LINK_UP (R150, R151, O43), the framer (R152, R153, R156; O44, O45) and the
transmitter with the place it frees (R154, R155, R158; O46). -/

namespace Sys2Proof.Machine

variable {s v : State} {l : Link} {i : SlotIx} {t : EntryIx} {p : PoolIx} {r : Record}

/-! ### What a teardown does not touch (R116) -/

/-- The time, the engines, the rights, the links and the fields of the catalogue stay. -/
structure OutsideKept (s v : State) : Prop where
  now : v.now = s.now
  engine : ∀ b, v.engine b = s.engine b
  rights : ∀ k, v.rightsOf k = s.rightsOf k
  link : ∀ k, v.link k = s.link k
  entry : ∀ x, (v.entry x).body = (s.entry x).body

theorem OutsideKept.refl (s : State) : OutsideKept s s :=
  ⟨rfl, fun _ => rfl, fun _ => rfl, fun _ => rfl, fun _ => rfl⟩

theorem OutsideKept.trans {u : State} (h : OutsideKept s v) (g : OutsideKept v u) : OutsideKept s u :=
  ⟨g.now.trans h.now, fun b => (g.engine b).trans (h.engine b), fun k => (g.rights k).trans (h.rights k),
    fun k => (g.link k).trans (h.link k), fun x => (g.entry x).trans (h.entry x)⟩

theorem OutsideKept.foldl {α : Type} {f : State → α → State} (h : ∀ s a, OutsideKept s (f s a))
    (s : State) (as : List α) : OutsideKept s (as.foldl f s) :=
  foldl_keep (P := OutsideKept s) f (fun v a hv => hv.trans (h v a)) s as (.refl s)

theorem outsideKept_setBody (s : State) (i : SlotIx) (x : SlotBody) : OutsideKept s (s.setBody i x) :=
  ⟨rfl, fun _ => rfl, fun _ => rfl, fun _ => rfl, fun _ => rfl⟩

theorem outsideKept_setRecord (s : State) (p : PoolIx) (x : Option Record) :
    OutsideKept s (s.setRecord p x) :=
  ⟨rfl, fun _ => rfl, fun _ => rfl, fun _ => rfl, fun _ => rfl⟩

theorem outsideKept_freeRecord (s : State) (p : PoolIx) : OutsideKept s (s.freeRecord p) :=
  ⟨rfl, fun _ => rfl, fun _ => rfl, fun _ => rfl, fun _ => rfl⟩

theorem outsideKept_leaveQueue (s : State) (t : EntryIx) (i : SlotIx) :
    OutsideKept s (s.leaveQueue t i) :=
  ⟨rfl, fun _ => rfl, fun _ => rfl, fun _ => rfl, fun _ => entry_setWaitQueue_body ..⟩

theorem outsideKept_vacate (s : State) (i : SlotIx) (t : EntryIx) : OutsideKept s (s.vacate i t) :=
  (outsideKept_setBody s i .free).trans (outsideKept_leaveQueue _ t i)

theorem outsideKept_offerNotice (s : State) (l : Link) (n : Notice) :
    OutsideKept s (s.offerNotice l n) := by
  constructor <;> simp

theorem outsideKept_grantPass (s : State) (t : EntryIx) : OutsideKept s (s.grantPass t) := by
  constructor <;> simp

theorem outsideKept_requestStop (s : State) (p : PoolIx) : OutsideKept s (s.requestStop p) := by
  constructor <;> simp

theorem outsideKept_tearRecord (l : Link) (s : State) (p : PoolIx) :
    OutsideKept s (State.tearRecord l s p) := by
  unfold State.tearRecord
  split
  · exact .refl s
  split
  · split
    · exact outsideKept_freeRecord s p
    · exact outsideKept_setRecord s p _
    · split
      · exact outsideKept_setRecord s p _
      · have hfree : ∀ b, OutsideKept s ((s.leaveBusQueue b p).freeRecord p) := fun b =>
          ⟨rfl, fun _ => rfl, fun _ => rfl, fun _ => rfl, fun _ => rfl⟩
        unfold State.discardQueued State.dropFlight
        dsimp only
        split
        · split
          · split
            · exact (hfree _).trans (outsideKept_setBody _ _ _)
            · exact hfree _
          · exact hfree _
        · exact hfree _
  · exact .refl s

theorem outsideKept_tearSlot (l : Link) (s : State) (i : SlotIx) :
    OutsideKept s (State.tearSlot l s i) := by
  unfold State.tearSlot State.becomeEnding
  split
  · exact .refl s
  · split
    · exact outsideKept_vacate _ _ _
    · exact .refl s
  · split
    · split
      · exact ((outsideKept_setBody _ _ _).trans (outsideKept_leaveQueue _ _ _)).trans
          (outsideKept_requestStop _ _)
      · exact outsideKept_vacate _ _ _
    · exact .refl s
  · split
    · exact outsideKept_setBody _ _ _
    · exact .refl s

theorem outsideKept_tearHoldings (s : State) (l : Link) : OutsideKept s (s.tearHoldings l) := by
  have hwaiting : OutsideKept s (s.setWaitingDone l []) :=
    ⟨rfl, fun _ => rfl, fun _ => rfl, fun _ => rfl, fun _ => rfl⟩
  exact ((hwaiting.trans (.foldl (outsideKept_tearRecord l) _ _)).trans
    (.foldl (outsideKept_tearSlot l) _ _)).trans (.foldl outsideKept_grantPass _ _)

theorem outsideKept_closing (s : State) (l : Link) :
    OutsideKept s ((s.clearNotices l).putSession l .closed) :=
  ⟨rfl, fun _ => rfl, fun _ => rfl, fun _ => rfl, fun _ => rfl⟩

theorem outsideKept_teardown (s : State) (l : Link) : OutsideKept s (s.teardown l) :=
  (outsideKept_tearHoldings s l).trans (outsideKept_closing _ l)

theorem convertDone_eq (hr : s.record p = some r) :
    State.convertDone l s p = (s.offerNotice l (doneUnseenNotice r)).freeRecord p := by
  simp only [State.convertDone, hr]

theorem outsideKept_convertDone (l : Link) (s : State) (p : PoolIx) :
    OutsideKept s (State.convertDone l s p) := by
  unfold State.convertDone
  split
  · exact .refl s
  · exact (outsideKept_offerNotice _ _ _).trans (outsideKept_freeRecord _ _)

/-! ### The line (R150, R151, R113) -/

theorem tearsDown_iff : s.tearsDown l = true ↔ ∃ job, s.restart = some job ∧ l ∈ job.teardowns := by
  unfold State.tearsDown
  cases s.restart <;> simp

/-- R151: the unit as going DOWN leaves it, written from the unit before. -/
theorem goDown_eq (hv : OutsideKept s v) : v.setLink l ((v.link l).goDown v.now) =
    v.setLink l { s.link l with
      line := .down, idleFrom := s.now, framer := .hunt, requestQueue := [], hold := false
      outbound := [], sending := none, reserved := false, granted := false, pendingReject := none } := by
  rw [hv.link, hv.now]
  rfl

theorem suspend_eq (s : State) (l : Link) (key : Nat) : s.suspend l key =
    (s.waitingDone l).foldl (State.convertDone l)
      (((s.setSession l (.suspended key (s.now + (s.rightsOf l).grace * 10))).setNotice l
        { s.notice l with attn := false }).setWaitingDone l []) := by
  simp only [State.suspend, putSession_eq]
  rfl

theorem outsideKept_suspend (s : State) (l : Link) (key : Nat) : OutsideKept s (s.suspend l key) := by
  rw [suspend_eq]
  refine OutsideKept.trans ?_ (.foldl (outsideKept_convertDone l) _ _)
  exact ⟨rfl, fun _ => rfl, fun _ => rfl, fun _ => rfl, fun _ => rfl⟩

/-- R149: without a teardown to come first, the link goes DOWN at once. -/
theorem tearsFirst_eq (h : (¬ ∃ job, s.restart = some job ∧ l ∈ job.teardowns) ∨
    ∀ key, s.session l ≠ .opened key) : s.tearsFirst l = s := by
  refine if_neg ?_
  rw [Bool.and_eq_true, tearsDown_iff]
  rintro ⟨htrain, hopen⟩
  rcases h with h | h
  · exact h htrain
  · cases hs : s.session l with
    | opened key => exact h key hs
    | closed | suspended => simp [hs, Session.isOpen] at hopen

theorem sessionLosesLine_of_not_open (h : ∀ key, s.session l ≠ .opened key) :
    s.sessionLosesLine l = s := by
  cases hs : s.session l with
  | opened key => exact absurd hs (h key)
  | closed | suspended => simp only [State.sessionLosesLine, hs]

/-- Settles O43: by the session of the link, and whether a teardown of it is still to come. -/
theorem lineGoesDownAndUp : Obligations.LineGoesDownAndUp := by
  intro s l u down inTrain
  have hdown : ∀ {w}, u.line = .up → OutsideKept s w → (s.tearsFirst l).sessionLosesLine l = w →
      exec (.lineBreak l) s = .next (down w) := fun {w} hup hw heq => by
    refine congrArg Host.Outcome.next (?_ : s.breakFound l = _)
    simp only [State.breakFound, show (s.link l).line = .up from hup, State.linkDown, heq]
    exact goDown_eq hw
  refine ⟨fun hup ht key hs => ?_, fun hup ht key hs hg => ?_, fun v p r hr => convertDone_eq hr,
    fun hup ht key hs hg => ?_, fun hup hs => ?_, fun hd => ?_, fun hd => ?_⟩
  · refine hdown hup (outsideKept_teardown s l) ?_
    have hfirst : s.tearsFirst l = s.teardown l :=
      if_pos (by rw [Bool.and_eq_true, tearsDown_iff, hs]; exact ⟨ht, rfl⟩)
    rw [hfirst]
    obtain ⟨-, hclosed, -⟩ := teardown_frame s l
    exact sessionLosesLine_of_not_open fun key h => by rw [hclosed] at h; cases h
  · refine hdown hup ?_ ?_
    · exact suspend_eq s l key ▸ outsideKept_suspend s l key
    · rw [tearsFirst_eq (.inl ht)]
      simp only [State.sessionLosesLine, hs, Nat.pos_of_ne_zero hg, if_true, suspend_eq]
  · refine hdown hup (outsideKept_teardown s l) ?_
    rw [tearsFirst_eq (.inl ht)]
    simp only [State.sessionLosesLine, hs, hg, Nat.lt_irrefl, if_false]
  · refine hdown hup (.refl s) ?_
    rw [tearsFirst_eq (.inr hs), sessionLosesLine_of_not_open hs]
  · refine congrArg Host.Outcome.next (?_ : s.breakFound l = _)
    unfold State.breakFound
    split
    · exact absurd (‹(s.link l).line = .up›.symm.trans hd) nofun
    · rfl
  · refine congrArg Host.Outcome.next (?_ : s.idleFound l = _)
    unfold State.idleFound
    split
    · exact absurd (‹(s.link l).line = .up›.symm.trans hd) nofun
    · rfl

/-! ### The framer (R152, R153) -/

section Framer

variable {c : Byte}

theorem charReceived_up (hup : (s.link l).line = .up) : s.charReceived l c = s.framerTakes l c := by
  simp only [State.charReceived, hup]

/-- R152: the last expected character, with the frame it completes. -/
theorem frameEnds_eq {len : Nat} {tag code : Byte} {body check : List Byte}
    (hlen : len = body.length + 2) : s.frameEnds l len (tag :: code :: body ++ check) =
      if check = crcBytes (byteOf len :: tag :: code :: body) then
        if (s.link l).requestQueue.length < 4 then s.setLink l ((s.link l).joined ⟨tag, code, body⟩)
        else s.framerRejects l .overrun
      else s.framerRejects l .badcheck := by
  have hl : len = (tag :: code :: body).length := by simp [hlen]
  have htake : (tag :: code :: body ++ check).take len = tag :: code :: body := by
    rw [hl, List.take_left]
  have hdrop : (tag :: code :: body ++ check).drop len = check := by
    rw [hl, List.drop_left]
  rw [State.frameEnds, htake, hdrop]
  by_cases hgood : check = crcBytes (byteOf len :: tag :: code :: body)
  · rw [if_neg (not_not.mpr hgood), if_pos hgood]
    rfl
  · rw [if_pos hgood, if_neg hgood]

theorem joined_eq (u : LinkUnit) (f : Frame) : u.joined f = { u with
    framer := .hunt, requestQueue := u.requestQueue ++ [f]
    hold := u.hold || u.requestQueue.length == 2 } := by
  simp [LinkUnit.joined]

/-- Settles O44: by the framer's state, and for the last character by the frame it completes. -/
theorem characterByFramerState : Obligations.CharacterByFramerState := by
  intro s l c hup u goes rejects
  have hexec : ∀ {v}, s.framerTakes l c = v → exec (.characterReceived l c) s = .next v := fun h =>
    congrArg Host.Outcome.next ((charReceived_up hup).trans h)
  refine ⟨fun hf hc => hexec ?_, fun hf hc => hexec ?_, fun gap hf => ⟨fun h2 h80 => hexec ?_,
    fun h => hexec ?_⟩, fun len got gap hf => ⟨fun hmore => hexec ?_, ?_⟩⟩
  · simp only [State.framerTakes, show (s.link l).framer = .hunt from hf, if_pos (show c = requestStart from hc)]
    rfl
  · simp only [State.framerTakes, show (s.link l).framer = .hunt from hf, if_neg (show c ≠ requestStart from hc)]
  · simp only [State.framerTakes, show (s.link l).framer = .length gap from hf,
      if_neg (show ¬ (c.toNat < 2 ∨ 80 < c.toNat) by omega)]
    rfl
  · simp only [State.framerTakes, show (s.link l).framer = .length gap from hf, if_pos h]
  · simp only [State.framerTakes, show (s.link l).framer = .content len got gap from hf, if_pos hmore]
    rfl
  · intro tag code body check hchars hlen hcheck good
    have hlast : ¬ got.length + 1 < len + 2 := by
      have hcount := congrArg List.length hchars
      simp only [List.length_append, List.length_cons, List.length_nil] at hcount
      omega
    have hends : s.framerTakes l c = s.frameEnds l len (tag :: code :: body ++ check) := by
      simp only [State.framerTakes, show (s.link l).framer = .content len got gap from hf, if_neg hlast,
        hchars]
    rw [frameEnds_eq hlen] at hends
    refine ⟨fun hg hroom => hexec ?_, fun hg hfull => hexec ?_, fun hg => hexec ?_⟩
    · rw [hends, if_pos hg, if_pos hroom, joined_eq]
    · rw [hends, if_pos hg, if_neg (Nat.not_lt.mpr hfull)]
    · rw [hends, if_neg hg]

end Framer

/-! ### Who takes an available place (R155, R156) -/

theorem placeAvailable_iff (u : LinkUnit) : u.placeAvailable = true ↔
    u.outbound.length + (if u.reserved then 1 else 0) + (if u.granted then 1 else 0) < 6 := by
  rw [LinkUnit.placeAvailable]
  exact decide_eq_true_iff

theorem givePlace_of_not_available (h : (s.link l).placeAvailable = false) : s.givePlace l = s := by
  simp [State.givePlace, h]

theorem givePlace_of_none_waits (hd : s.waitingDone l = []) (hr : (s.link l).pendingReject = none) :
    s.givePlace l = s := by
  simp [State.givePlace, hd, hr]

theorem givePlace_completion {q : List PoolIx} (h : (s.link l).placeAvailable = true)
    (hd : s.waitingDone l = p :: q) (hr : s.record p = some r) : s.givePlace l =
      ((s.setLink l { s.link l with outbound := (s.link l).outbound ++ [completionFrame r] }
        ).setWaitingDone l q).freeRecord p := by
  simp only [State.givePlace, h, hd, hr, if_true]
  rfl

theorem givePlace_reject {n : Nat} {first : RejectReason} (h : (s.link l).placeAvailable = true)
    (hd : s.waitingDone l = []) (hr : (s.link l).pendingReject = some (n, first)) : s.givePlace l =
      s.setLink l { s.link l with
        outbound := (s.link l).outbound ++ [⟨0, .reject, [byteOf n, first.code]⟩], pendingReject := none } := by
  simp [State.givePlace, h, hd, hr, State.pushOutbound, rejectFrame]

/-- Settles O45: the reject, and the record of it with or without a place. -/
theorem framerRejectByRule : Obligations.FramerRejectByRule := by
  intro s l u
  refine ⟨fun hup hf => ?_, fun gap hf => ?_, fun reason n first hn => ?_⟩
  · refine congrArg Host.Outcome.next (?_ : s.badCharacter l = _)
    unfold State.badCharacter
    split
    · exact absurd (‹(s.link l).line = .down›.symm.trans hup) nofun
    · exact absurd ‹(s.link l).framer = .hunt› hf
    · rfl
    · rfl
  · refine congrArg Host.Outcome.next (?_ : s.gapExpires l = _)
    rcases hf with hf | ⟨len, got, hf⟩
    · simp only [State.gapExpires, show (s.link l).framer = .length gap from hf]
      rfl
    · simp only [State.gapExpires, show (s.link l).framer = .content len got gap from hf]
      rfl
  · have hraise : raiseReject reason u.pendingReject = some (n, first) := by
      rcases hn with ⟨hp, rfl, rfl⟩ | ⟨m, hp, rfl⟩
      · rw [hp]
        rfl
      · rw [hp]
        rfl
    have hrejects : s.framerRejects l reason =
        (s.setLink l { u with framer := .hunt, pendingReject := some (n, first) }).givePlace l := by
      rw [← hraise]
      rfl
    refine ⟨fun hplace => ?_, fun hplace hdone => ?_⟩
    · rw [hrejects, givePlace_of_not_available]
      rw [State.link_setLink_self]
      exact hplace
    · rw [hrejects, givePlace_reject (n := n) (first := first)]
      · simp
      · rw [State.link_setLink_self]
        exact hplace
      · simpa using hdone
      · simp

/-! ### The place kept for the intake (R158) -/

/-- What comes to a link whose intake has a place finds it still there. -/
structure PlaceKept (l : Link) (s v : State) : Prop where
  granted : (v.link l).granted = (s.link l).granted
  held : (v.link l).restoreHold = (s.link l).restoreHold
  places : (s.link l).placesTaken ≤ 6 → (v.link l).placesTaken ≤ 6

theorem PlaceKept.of_link (h : v.link l = s.link l) : PlaceKept l s v := by
  constructor <;> rw [h]
  exact id

theorem PlaceKept.trans {u : State} (h : PlaceKept l s v) (g : PlaceKept l v u) : PlaceKept l s u :=
  ⟨g.granted.trans h.granted, g.held.trans h.held, fun hs => g.places (h.places hs)⟩

/-- R155: a frame is placed only where a place is available. -/
theorem placeKept_push (h : (s.link l).placeAvailable = true) (x : Response) :
    PlaceKept l s (s.pushOutbound l x) := by
  rw [LinkUnit.placeAvailable, decide_eq_true_eq, Config.outboundDepth, LinkUnit.placesTaken] at h
  refine ⟨by simp [State.pushOutbound], by simp [State.pushOutbound], fun _ => ?_⟩
  simp only [LinkUnit.placesTaken, State.pushOutbound, State.link_setLink_self, List.length_append,
    List.length_cons, List.length_nil]
  omega

theorem placeKept_setLink {u : LinkUnit} (hg : u.granted = (s.link l).granted)
    (hh : u.restoreHold = (s.link l).restoreHold) (hp : u.placesTaken = (s.link l).placesTaken) :
    PlaceKept l s (s.setLink l u) := by
  refine ⟨?_, ?_, fun hs => ?_⟩ <;> rw [State.link_setLink_self]
  · exact hg
  · exact hh
  · rwa [hp]

theorem placeKept_givePlace (s : State) (l : Link) : PlaceKept l s (s.givePlace l) := by
  unfold State.givePlace
  split
  · rename_i h
    split
    · split
      · refine (placeKept_push h (completionFrame ‹_›)).trans (.of_link ?_)
        simp
      · exact .of_link (by simp)
    · split
      · rename_i count reason _
        exact (placeKept_push h (rejectFrame count reason)).trans (placeKept_setLink rfl rfl rfl)
      · exact .of_link rfl
  · exact .of_link rfl

theorem placeKept_framerRejects (s : State) (l : Link) (reason : RejectReason) :
    PlaceKept l s (s.framerRejects l reason) :=
  (placeKept_setLink (u := { s.link l with
    framer := .hunt, pendingReject := raiseReject reason (s.link l).pendingReject }) rfl rfl rfl).trans
    (placeKept_givePlace _ l)

theorem placeKept_route (hd : r.destination = some l) (p : PoolIx) (detached : Bool) :
    PlaceKept l s (s.route p r detached) := by
  unfold State.route State.offerCompletion
  rw [hd]
  dsimp only
  split
  · exact .of_link (by simp)
  split
  · split
    · rename_i h
      rw [Bool.and_eq_true] at h
      refine (placeKept_push h.1 (completionFrame r)).trans (.of_link ?_)
      simp
    · exact .of_link (by simp)
  · exact .of_link (by simp)
  · exact .of_link (by simp)

/-- R158: with its place kept the intake may take its frame, and the answer has room. -/
theorem PlaceKept.ready (h : PlaceKept l s v) (hg : (s.link l).granted = true)
    (hh : (s.link l).restoreHold = none) (hp : (s.link l).placesTaken ≤ 6) :
    v.intakeReady l = true ∧ (v.link l).outbound.length < 6 := by
  have hplaces := h.places hp
  have hgranted := h.granted.trans hg
  refine ⟨intakeReady_iff.mpr ⟨h.held.trans hh, .inl hgranted⟩, ?_⟩
  rw [LinkUnit.placesTaken, hgranted, if_pos rfl] at hplaces
  omega

/-! ### The transmitter (R154, R159) -/

/-- R154, R155: where the place that a sent frame leaves goes. -/
theorem frameSent_eq {chars : List Byte} {x : Response} {rest : List Response}
    (hs : (s.link l).sending = some chars) (ho : (s.link l).outbound = x :: rest) : s.frameSent l =
      (s.setLink l { s.link l with sending := none, outbound := rest }).placeFreed l := by
  simp only [State.frameSent, hs, ho, Option.isSome_some, if_true, List.drop_one, List.tail_cons]

theorem intakeFirst_iff : s.intakeFirst l = true ↔ (s.link l).placeAvailable = true ∧
    s.waitingDone l = [] ∧ (s.link l).pendingReject = none := by
  simp [State.intakeFirst, and_assoc]

theorem placeFreed_of_not (h : ¬ (s.waitingDone l = [] ∧ (s.link l).pendingReject = none ∧
    (s.link l).intakeWaits = true)) : s.placeFreed l = s.givePlace l := by
  refine if_neg ?_
  rw [Bool.and_eq_true, intakeFirst_iff]
  exact fun ⟨⟨_, hd, hr⟩, hw⟩ => h ⟨hd, hr, hw⟩

theorem intakeWaits_iff {u : LinkUnit} :
    u.intakeWaits = true ↔ u.requestQueue ≠ [] ∧ u.restoreHold = none := by
  simp [LinkUnit.intakeWaits]

/-- Settles O46: who takes a place, and the place that a sent frame leaves. -/
theorem framesAreSent : Obligations.FramesAreSent := by
  refine ⟨fun s l => ⟨placeAvailable_iff _, givePlace_of_not_available, fun h p q x =>
    givePlace_completion h, fun h hd n first => givePlace_reject h hd, givePlace_of_none_waits⟩,
    fun s l hl => ?_⟩
  intro u
  obtain ⟨-, -, -, -, ⟨hplaces, -⟩, -⟩ := hl
  refine ⟨fun r rest hup hs ho => ⟨congrArg Host.Outcome.next (?_ : s.transmitStarts l false = _),
    congrArg Host.Outcome.next (?_ : s.transmitStarts l true = _)⟩, fun chars r rest hs ho => ?_⟩
  · have hidle : (s.link l).line = .up ∧ (s.link l).sending = none ∧ false = false := ⟨hup, hs, rfl⟩
    rw [State.transmitStarts, if_pos hidle]
    split
    · cases ho.symm.trans ‹(s.link l).outbound = _›
      rfl
    · cases ho.symm.trans ‹(s.link l).outbound = _›
  · simp [State.transmitStarts]
  · intro v given
    have hplaces : rest.length + 1 + (if u.reserved then 1 else 0) + (if u.granted then 1 else 0) ≤ 6 := by
      simpa [LinkUnit.placesTaken, show (s.link l).outbound = r :: rest from ho] using hplaces
    have hlink : v.link l = { u with sending := none, outbound := rest } := State.link_setLink_self ..
    have havail : (v.link l).placeAvailable = true := by
      rw [hlink, placeAvailable_iff]
      dsimp only
      omega
    have hdone : v.waitingDone l = s.waitingDone l := rfl
    have hexec : ∀ {w}, v.placeFreed l = w → exec (.frameSent l) s = .next w := fun h =>
      congrArg Host.Outcome.next ((frameSent_eq hs ho).trans h)
    refine ⟨fun p q x hd hx => hexec ?_, fun hd n first hr => hexec ?_, fun hd hr => ⟨fun hno => hexec ?_,
      fun hq hh => ⟨hexec ?_, ?_⟩⟩⟩
    · rw [placeFreed_of_not (by simp [hdone, hd]), givePlace_completion havail hd hx, hlink]
    · rw [placeFreed_of_not (by simp [hlink, hr]), givePlace_reject havail hd (by rw [hlink]; exact hr),
        hlink]
      simp [v]
    · rw [placeFreed_of_not, givePlace_of_none_waits (s := v) hd (by rw [hlink]; exact hr)]
      rintro ⟨-, -, hw⟩
      rw [hlink, intakeWaits_iff] at hw
      exact hno.elim hw.1 (fun h => h hw.2)
    · have htakes : v.intakeFirst l = true ∧ (v.link l).intakeWaits = true :=
        ⟨intakeFirst_iff.mpr ⟨havail, hd, by rw [hlink]; exact hr⟩,
          by rw [hlink]; exact intakeWaits_iff.mpr ⟨hq, hh⟩⟩
      rw [State.placeFreed, htakes.1, htakes.2, hlink]
      simp [v, given]
    · have hgiven : given.link l = { u with sending := none, outbound := rest, granted := true } :=
        State.link_setLink_self ..
      have hready : ∀ {w}, PlaceKept l given w → w.intakeReady l = true ∧ (w.link l).outbound.length < 6 :=
        fun hw => hw.ready (by rw [hgiven]) (by rw [hgiven]; exact hh)
          (by rw [hgiven, LinkUnit.placesTaken]; dsimp only [if_true]; split at hplaces <;> simp_all <;> omega)
      exact ⟨(hready (.of_link rfl)).1, fun reason => hready (placeKept_framerRejects _ l reason),
        fun p x detached hx => hready (placeKept_route hx p detached)⟩

end Sys2Proof.Machine

/-! What an engine sends and the course of an attempt (R71, R72, R91, R93 to R97; O47). -/

namespace Sys2Proof.Machine

variable {elements rest : List BusElement} {levels : List Bool} {run : BusRun}

/-! ### The plans (R71, R72, R97) -/

theorem receives_eq (n : Nat) :
    receives (n + 1) = List.replicate n (.receive true) ++ [.receive false] := by
  induction n with
  | zero => rfl
  | succ n ih => rw [receives, ih, List.replicate_succ, List.cons_append]

theorem length_offsetBytes {width : Nat} (h : width ≤ 2) (offset : Nat) :
    (offsetBytes width offset).length = width := by
  interval_cases width <;> rfl

/-! ### The steps of a byte (R91) -/

theorem steps_readCount {e : BusElement} (h : BusElement.pulse ∉ e :: rest) :
    (e.steps.countP fun x => decide (x = .readData)) = e.readCount := by
  have hsend : ∀ bits : List Bool,
      ((bits.flatMap sendBit).countP fun x => decide (x = .readData)) = 0 := fun bits => by
    induction bits with
    | nil => rfl
    | cons bit bits ih => simp [sendBit, ih]
  cases e with
  | send b => simp [BusElement.steps, hsend, readBit, BusElement.readCount]
  | receive k => cases k <;> rfl
  | pulse => exact absurd List.mem_cons_self h
  | start | repeatedStart | stop | release => rfl

/-- The binary digits of a number below 256 make it up again. -/
theorem value_of_bits {n : Nat} (hn : n < 256) :
    2 * (2 * (2 * (2 * (2 * (2 * (2 * (n / 128 % 2) + n / 64 % 2) + n / 32 % 2) + n / 16 % 2) +
      n / 8 % 2) + n / 4 % 2) + n / 2 % 2) + n % 2 = n := by
  omega

/-- R91: the eight bits read, most significant first, make up the byte again. -/
theorem byteOfBits_bits (b : Byte) :
    byteOfBits [b[7], b[6], b[5], b[4], b[3], b[2], b[1], b[0]] = b := by
  have hbit : ∀ k (h : k < 8), (b[k]'h).toNat = b.toNat / 2 ^ k % 2 := fun k h => by
    rw [BitVec.getElem_eq_testBit_toNat, Nat.toNat_testBit]
  simp only [byteOfBits, List.foldl_cons, List.foldl_nil, hbit, Nat.mul_zero, Nat.zero_add, Nat.reducePow,
    Nat.div_one]
  rw [value_of_bits b.isLt, BitVec.ofNat_toNat, BitVec.setWidth_eq]

/-! ### The course of an attempt with every byte acknowledged (R93 to R95, R97) -/

theorem runElements_sends (bs : List Byte) (h : runElements rest levels = some run) :
    runElements (bs.map .send ++ rest) (List.replicate bs.length false ++ levels) =
      some { run with given := bs.map .send ++ run.given, acknowledged := run.acknowledged + bs.length } := by
  induction bs with
  | nil => exact h
  | cons b bs ih =>
    rw [List.map_cons, List.length_cons, List.replicate_succ, List.cons_append, List.cons_append,
      runElements, ih]
    rfl

/-- The bits of some bytes, each most significant first. -/
def bitsRead (data : List Byte) : List Bool :=
  data.flatMap fun b => [b[7], b[6], b[5], b[4], b[3], b[2], b[1], b[0]]

theorem runElements_receive (k : Bool) (b : Byte) (h : runElements rest levels = some run) :
    runElements (.receive k :: rest) ([b[7], b[6], b[5], b[4], b[3], b[2], b[1], b[0]] ++ levels) =
      some (run.afterReceived k b) := by
  rw [runElements, if_neg (by simp)]
  have htake : ([b[7], b[6], b[5], b[4], b[3], b[2], b[1], b[0]] ++ levels).take 8 =
      [b[7], b[6], b[5], b[4], b[3], b[2], b[1], b[0]] := rfl
  have hdrop : ([b[7], b[6], b[5], b[4], b[3], b[2], b[1], b[0]] ++ levels).drop 8 = levels := rfl
  rw [htake, hdrop, h, byteOfBits_bits]
  rfl

theorem runElements_receives {data : List Byte} (hd : data ≠ []) (h : runElements rest levels = some run) :
    runElements (receives data.length ++ rest) (bitsRead data ++ levels) =
      some { run with given := receives data.length ++ run.given, data := data ++ run.data } := by
  induction data with
  | nil => exact absurd rfl hd
  | cons b data ih =>
    rw [bitsRead, List.flatMap_cons, List.append_assoc, ← bitsRead]
    cases data with
    | nil => exact runElements_receive false b h
    | cons c data => exact runElements_receive true b (ih (List.cons_ne_nil _ _))

theorem runElements_readPlan (sn : Snapshot) (offset : Nat) {data : List Byte} (hd : data ≠ [])
    (hw : sn.offsetWidth ≤ 2) :
    runElements (readPlan sn offset data.length).elements
      (List.replicate (if sn.offsetWidth = 0 then 1 else sn.offsetWidth + 2) false ++ bitsRead data) =
      some ⟨(readPlan sn offset data.length).elements,
        if sn.offsetWidth = 0 then 1 else sn.offsetWidth + 2, false, data⟩ := by
  have hread := runElements_receives (rest := [.stop]) (levels := []) (run := ⟨[.stop], 0, false, []⟩) hd rfl
  rw [List.append_nil] at hread
  by_cases h0 : sn.offsetWidth = 0
  · simp only [readPlan, if_pos h0, List.append_assoc, List.cons_append, List.nil_append, List.replicate_one,
      runElements, hread]
    simp [BusRun.afterSent, BusRun.after]
  · have hsends := runElements_sends (offsetBytes sn.offsetWidth offset)
      (rest := [.repeatedStart, .send (addressByte sn.address 1)] ++ receives data.length ++ [.stop])
      (levels := false :: bitsRead data) (by
        simp only [List.cons_append, List.nil_append, runElements, hread]
        rfl)
    rw [length_offsetBytes hw] at hsends
    have hlevels : List.replicate (sn.offsetWidth + 2) false ++ bitsRead data =
        false :: (List.replicate sn.offsetWidth false ++ false :: bitsRead data) := by
      rw [List.replicate_succ, List.replicate_succ', List.cons_append, List.append_assoc]
      rfl
    simp only [readPlan, if_neg h0, hlevels, List.append_assoc, List.cons_append, List.nil_append,
      runElements] at hsends ⊢
    rw [hsends]
    simp [BusRun.afterSent, BusRun.after]
    omega

theorem runElements_writePlan (sn : Snapshot) (offset : Nat) (data : List Byte)
    (hw : sn.offsetWidth ≤ 2) : runElements (writePlan sn offset data).elements
      (List.replicate (1 + sn.offsetWidth + data.length) false) =
      some ⟨(writePlan sn offset data).elements, 1 + sn.offsetWidth + data.length, false, []⟩ := by
  have hsends := runElements_sends (offsetBytes sn.offsetWidth offset ++ data) (rest := [.stop])
    (levels := []) (run := ⟨[.stop], 0, false, []⟩) rfl
  rw [List.append_nil, List.length_append, length_offsetBytes hw] at hsends
  rw [Nat.add_assoc, Nat.add_comm 1, List.replicate_succ]
  simp only [writePlan, List.append_assoc, List.cons_append, List.nil_append, runElements, List.map_append]
    at hsends ⊢
  rw [hsends]
  simp [BusRun.afterSent, BusRun.after]

/-! ### The course of any attempt (R91, R94, R95) -/

theorem sentBytes_send (b : Byte) (rest : List BusElement) :
    sentBytes (.send b :: rest) = b :: sentBytes rest := rfl

/-- A course with every byte sent acknowledged gives the whole plan. -/
theorem runElements_accepted (h : runElements elements levels = some run) (hr : run.refused = false) :
    run.given = elements ∧ run.acknowledged = (sentBytes elements).length := by
  induction elements, levels using runElements.induct generalizing run with
  | case1 =>
    cases h
    exact ⟨rfl, rfl⟩
  | case2 | case3 => simp [runElements] at h
  | case4 _ _ _ ih | case9 _ _ ih | case10 _ _ ih | case11 _ _ ih | case12 _ _ ih | case13 _ _ ih =>
    simp only [runElements, Option.map_eq_some_iff] at h
    obtain ⟨x, hx, rfl⟩ := h
    obtain ⟨hgiven, hack⟩ := ih hx hr
    exact ⟨congrArg _ hgiven, by simp [BusRun.afterSent, BusRun.after, sentBytes, hack]⟩
  | case5 =>
    simp [runElements] at h
    simp [← h] at hr
  | case6 _ _ _ hl => simp [runElements, hl] at h
  | case7 _ _ _ hl => simp [runElements, hl] at h
  | case8 _ _ _ hl ih =>
    simp only [runElements, if_neg hl, Option.map_eq_some_iff] at h
    obtain ⟨x, hx, rfl⟩ := h
    obtain ⟨hgiven, hack⟩ := ih hx hr
    exact ⟨congrArg _ hgiven, hack⟩

/-- At the first byte that is not acknowledged a stop ends the course. -/
theorem runElements_refused (h : runElements elements levels = some run) (hr : run.refused = true) :
    ∃ front b back, elements = front ++ .send b :: back ∧ run.given = front ++ [.send b, .stop] ∧
      run.acknowledged = (sentBytes front).length ∧ levels.getLast? = some true := by
  induction elements, levels using runElements.induct generalizing run with
  | case1 =>
    cases h
    cases hr
  | case2 | case3 => simp [runElements] at h
  | case4 _ _ _ ih =>
    simp only [runElements, Option.map_eq_some_iff] at h
    obtain ⟨x, hx, rfl⟩ := h
    obtain ⟨front, b, back, rfl, hgiven, hack, hlast⟩ := ih hx hr
    refine ⟨_ :: front, b, back, rfl, congrArg _ hgiven, ?_, ?_⟩
    · exact congrArg (· + 1) hack
    · rw [List.getLast?_cons, hlast, Option.getD_some]
  | case9 _ _ ih | case10 _ _ ih | case11 _ _ ih | case12 _ _ ih | case13 _ _ ih =>
    simp only [runElements, Option.map_eq_some_iff] at h
    obtain ⟨x, hx, rfl⟩ := h
    obtain ⟨front, b, back, rfl, hgiven, hack, hlast⟩ := ih hx hr
    exact ⟨_ :: front, b, back, rfl, congrArg _ hgiven, hack, hlast⟩
  | case5 b back =>
    simp only [runElements, if_true, Option.some.injEq] at h
    cases h
    exact ⟨[], b, back, rfl, rfl, rfl, rfl⟩
  | case6 _ _ _ hl => simp [runElements, hl] at h
  | case7 _ _ _ hl => simp [runElements, hl] at h
  | case8 _ _ _ hl ih =>
    simp only [runElements, if_neg hl, Option.map_eq_some_iff] at h
    obtain ⟨x, hx, rfl⟩ := h
    obtain ⟨front, b, back, rfl, hgiven, hack, hlast⟩ := ih hx hr
    refine ⟨_ :: front, b, back, rfl, congrArg _ hgiven, hack, ?_⟩
    rw [List.getLast?_drop] at hlast
    split at hlast
    · cases hlast
    · exact hlast

/-- The course has as many readings as the elements given read the data line. -/
theorem runElements_readCount (h : runElements elements levels = some run)
    (hp : BusElement.pulse ∉ elements) : levels.length =
      (run.given.flatMap BusElement.steps).countP fun x => decide (x = .readData) := by
  induction elements, levels using runElements.induct generalizing run with
  | case1 =>
    cases h
    rfl
  | case2 | case3 => simp [runElements] at h
  | case4 _ _ _ ih | case9 _ _ ih | case10 _ _ ih | case11 _ _ ih | case12 _ _ ih =>
    simp only [runElements, Option.map_eq_some_iff] at h
    obtain ⟨x, hx, rfl⟩ := h
    have hrest := ih hx fun hm => hp (List.mem_cons_of_mem _ hm)
    simp only [BusRun.afterSent, BusRun.after, List.flatMap_cons, List.countP_append, ← hrest]
    rw [steps_readCount hp]
    simp [BusElement.readCount] <;> omega
  | case5 b back =>
    simp only [runElements, if_true, Option.some.injEq] at h
    cases h
    simp only [List.flatMap_cons, List.flatMap_nil, List.countP_append, steps_readCount hp]
    rfl
  | case6 _ _ _ hl => simp [runElements, hl] at h
  | case7 _ _ _ hl => simp [runElements, hl] at h
  | case8 _ _ _ hl ih =>
    simp only [runElements, if_neg hl, Option.map_eq_some_iff] at h
    obtain ⟨x, hx, rfl⟩ := h
    have hrest := ih hx fun hm => hp (List.mem_cons_of_mem _ hm)
    simp only [BusRun.afterReceived, BusRun.after, List.flatMap_cons, List.countP_append, ← hrest]
    rw [steps_readCount hp, List.length_drop, BusElement.readCount]
    omega
  | case13 => exact absurd List.mem_cons_self hp

/-- Settles O47: the plans by the offset width, the steps of each element, and the course of an attempt. -/
theorem operationPlans : Obligations.OperationPlans := by
  refine ⟨fun sn offset count hcount => ?_, fun sn offset data => ?_, fun b acknowledge => ?_,
    fun sn offset data hd hw => ?_, fun elements readings run h => ⟨runElements_accepted h,
      runElements_refused h, runElements_readCount h⟩⟩
  · intro write read received
    obtain ⟨n, rfl⟩ := Nat.exists_eq_add_of_lt hcount
    have hreceived : receives (0 + n + 1) ++ [.stop] = received := by
      rw [receives_eq, List.append_assoc]
      simp [received]
    refine ⟨fun hw => ?_, fun hw => ?_, fun hw => ?_⟩ <;>
      simp [readPlan, hw, ← hreceived, offsetBytes, wordBytes, addressByte, write, read]
  · intro write sent
    refine ⟨fun hw => ?_, fun hw => ?_, fun hw => ?_, ?_⟩ <;>
      simp [writePlan, pollPlan, offsetBytes, wordBytes, addressByte, write, sent, *]
  · exact ⟨rfl, rfl, rfl, rfl, rfl, rfl, rfl⟩
  · exact ⟨runElements_readPlan sn offset (List.length_pos_iff.mp hd) hw,
      runElements_writePlan sn offset data hw, rfl⟩

end Sys2Proof.Machine

/-! The bus engines: taking work (R88, O48), the end of a read operation (R94, O49), of a write segment
(R95, R74, O50), of a busy poll and of the waits of 1 ms (R96, R97, O51). -/

namespace Sys2Proof.Machine

variable {s v : State} {b : BusIx} {p : PoolIx} {r : Record} {lines : LineLevels} {e : Engine}
  {a : Attempt} {stored : BusPlan} {readings : List Bool} {run : BusRun} {g : BusPlan}

/-! ### Writing an engine commutes with writing elsewhere -/

theorem setRecord_setEngine (s : State) (b : BusIx) (e : Engine) (p : PoolIx) (x : Option Record) :
    (s.setEngine b e).setRecord p x = (s.setRecord p x).setEngine b e := rfl

/-- The engine's work has ended after it gave `g` on its bus. -/
theorem engineIdle_setGiven (s : State) (b : BusIx) (g : BusPlan) : (s.setGiven b g).engineIdle b =
    s.setEngine b { s.engine b with given := g, state := .idle, work := .none } := by
  simp [State.engineIdle, State.setGiven]

/-! ### The plan of the engine's work (R71, R72, R97) -/

section Plan

variable (hw : (s.engine b).work = .record p) (hr : s.record p = some r)

include hw hr

theorem planFor_operation : s.planFor b .operation = if r.kind = .read then
    readPlan r.snapshot r.offset r.count
    else writePlan r.snapshot r.nextStart (r.segmentData s.imageBuffer) := by
  simp only [State.planFor, hw, hr, Record.operationPlan]
  cases r.kind <;> rfl

theorem planFor_poll (began : Nat) : s.planFor b (.poll began) = pollPlan r.snapshot := by
  simp only [State.planFor, hw, hr]

end Plan

/-! ### Taking work (R88) -/

/-- Settles O48: the head of the queue, or the load operation handed to B0. -/
theorem engineTakesWork : Obligations.EngineTakesWork := by
  intro s b lines hidle
  refine ⟨fun p rest r hload hq hr => congrArg Host.Outcome.next (?_ : s.takeWork b lines = _),
    fun j hb hj => congrArg Host.Outcome.next (?_ : s.takeWork b lines = _)⟩
  · have hno : ¬ (b = 0 ∧ s.load.isSome = true) := fun ⟨hb, hs⟩ => by simp [hload hb] at hs
    simp only [State.takeWork, hidle, if_true, if_neg hno, hq, hr, State.takeHead,
      beginOperation_eq_setEngine]
    rw [planFor_operation (p := p) (r := { r with state := .active }) (by simp) (by simp)]
    simp
    rfl
  · subst hb
    have hyes : (0 : BusIx) = 0 ∧ s.load.isSome = true := ⟨rfl, by rw [hj]; rfl⟩
    rw [State.takeWork, if_pos hidle, if_pos hyes, takeLoadOperation_idle hidle hj]

/-! ### What came of an attempt -/

theorem attemptRun_eq (hu : s.underway b = some (a, stored)) (hr : runElements stored.elements readings = some run) :
    s.attemptRun b readings = some (a, run, s.setGiven b ⟨stored.speed, run.given⟩) := by
  rw [attemptRun_of_underway hu, hr, Option.map_some]

/-- A completion carries the bytes of its kind and status alone (R75). -/
theorem complete_bytes (hr : s.record p = some r) {status : Status} {n m : Nat}
    (h : carriedBytes r.kind status n = carriedBytes r.kind status m) :
    s.complete p status n = s.complete p status m := by
  have hrec : r.completed status n = r.completed status m := by rw [Record.completed, h]; rfl
  simp only [State.complete, hr, hrec]

/-- R96: a retry after 1 ms, or the end of the record. -/
theorem retryRecord_setGiven (s : State) (b : BusIx) (p : PoolIx) (r : Record) (g : BusPlan)
    (lines : LineLevels) : (s.setGiven b g).retryRecord b p r lines =
      if (s.engine b).retriesUsed < r.snapshot.retryLimit then
        s.setEngine b { s.engine b with
          given := g, retriesUsed := (s.engine b).retriesUsed + 1,
          state := .active (.retryWait (s.now + 1)) }
      else ((s.setEngine b { s.engine b with given := g, state := .idle, work := .none }).complete p .noack
        r.bytesDone).checkDrain lines := by
  have hused : ((s.setGiven b g).engine b).retriesUsed = (s.engine b).retriesUsed := by simp [State.setGiven]
  rw [State.retryRecord, State.retry?, hused]
  split
  · rename_i s' h
    split at h
    · rename_i hlt
      cases h
      rw [if_pos hlt]
      simp [State.setGiven, Config.retryWait]
    · cases h
  · rename_i h
    split at h
    · cases h
    · rename_i hge
      rw [if_neg hge, State.endRecord, engineIdle_setGiven]

/-! ### READ (R94) -/

/-- Settles O49: the record with its data, or a retry, or NOACK. -/
theorem readOperationEnds : Obligations.ReadOperationEnds := by
  intro s b p r lines stored readings run hu hrun hw hr hk e idle result
  have hresult : result = .next ((s.setGiven b ⟨stored.speed, run.given⟩).readEnds b p r run lines) := by
    refine congrArg Host.Outcome.next (?_ : s.readOperationEnds b readings lines = _)
    simp only [State.readOperationEnds, attemptRun_eq hu hrun, hw, hr, hk, if_true]
  refine ⟨fun hn => hresult.trans (congrArg _ ?_), fun hn => hresult.trans (congrArg _ ?_)⟩
  · rw [State.readEnds, hn, if_neg Bool.false_ne_true, State.endRecord, State.engineIdle]
    simp only [State.setGiven, setRecord_setEngine, State.setEngine_setEngine, State.engine_setEngine_self]
    rfl
  · rw [State.readEnds, if_pos hn, retryRecord_setGiven]
    rw [complete_bytes (r := r) (m := 0) (by simpa using hr) (by rw [hk]; rfl)]

/-! ### WRITE and STORE (R95, R72, R74) -/

theorem segmentBoundary_eq (hw : (s.engine b).work = .record p) (hk : r.kind ≠ .read) :
    s.segmentBoundary b p r lines = match r.nextSegment with
      | none => ((s.setEngine b { s.engine b with state := .idle, work := .none }).complete p .ok
          r.count).checkDrain lines
      | some r' =>
        let v := s.setRecord p (some r')
        if r.kind = .write ∧ r.stopRequested = true then
          ((v.setEngine b { s.engine b with state := .idle, work := .none }).complete p .cut
            r.bytesDone).checkDrain lines
        else
          v.setEngine b ⟨engineAfterCheck .operation
            (writePlan r'.snapshot r'.nextStart (r'.segmentData s.imageBuffer)) lines,
            (s.engine b).lastFault, .record p, 0, (s.engine b).given⟩ := by
  unfold State.segmentBoundary
  cases hn : r.nextSegment with
  | none => rfl
  | some r' =>
    have hk' : r'.kind ≠ .read := (same_nextSegment hn).kind ▸ hk
    dsimp only
    split
    · rfl
    · rw [beginOperation_eq_setEngine, planFor_operation (p := p) (r := r') (by simpa using hw) (by simp),
        if_neg hk']
      simp [hw]

/-- R95: refused at an offset byte or a data byte. -/
theorem segmentEnds_datanak (hn : run.refused = true) (ha : 0 < run.acknowledged) :
    (s.setGiven b g).segmentEnds b p r run lines =
      ((s.setEngine b { s.engine b with given := g, state := .idle, work := .none }).complete p .datanak
        (r.raised (r.dataAcknowledged run.acknowledged)).bytesDone).checkDrain lines := by
  rw [State.segmentEnds, if_pos hn, if_neg (Nat.ne_of_gt ha), State.endRecord, engineIdle_setGiven]

theorem segmentSent_poll (hw : (s.engine b).work = .record p) (hp : 0 < r.snapshot.pollLimit) :
    s.segmentSent b p r lines = (s.setRecord p (some (r.raised r.segmentLength))).setEngine b
      { s.engine b with state := engineAfterCheck (.poll s.now) (pollPlan r.snapshot) lines } := by
  have hsnap : (r.raised r.segmentLength).snapshot = r.snapshot := by
    unfold Record.raised
    split <;> rfl
  rw [State.segmentSent]
  simp only [hsnap, hp, if_true]
  rw [lineCheck_eq_setEngine, planFor_poll (p := p) (r := r.raised r.segmentLength) (by simpa using hw)
    (by simp), hsnap]
  simp

theorem segmentSent_boundary (hp : r.snapshot.pollLimit = 0) : s.segmentSent b p r lines =
    (s.setRecord p (some (r.raised r.segmentLength))).segmentBoundary b p (r.raised r.segmentLength)
      lines := by
  have hsnap : (r.raised r.segmentLength).snapshot = r.snapshot := by
    unfold Record.raised
    split <;> rfl
  rw [State.segmentSent]
  simp only [hsnap, hp, Nat.lt_irrefl, if_false]

/-- A STORE carries no bytes, a WRITE those it has done and `n` more (R72, R75). -/
theorem carried_raised {status : Status} (hk : r.kind ≠ .read) (n : Nat) :
    carriedBytes r.kind status (r.raised n).bytesDone = carriedBytes r.kind status (r.bytesDone + n) := by
  cases hkind : r.kind with
  | read => exact absurd hkind hk
  | write => simp [Record.raised, hkind]
  | store => rfl

/-- Settles O50: the boundary by the next segment, and the data phase by the first byte not
acknowledged. -/
theorem writeSegmentEnds : Obligations.WriteSegmentEnds := by
  intro s b p r lines hw hr hk
  refine ⟨segmentBoundary_eq hw hk, fun stored readings run hu hrun => ?_⟩
  intro e ended result
  have hresult : result = .next ((s.setGiven b ⟨stored.speed, run.given⟩).segmentEnds b p r run lines) := by
    refine congrArg Host.Outcome.next (?_ : s.writeSegmentEnds b readings lines = _)
    simp only [State.writeSegmentEnds, attemptRun_eq hu hrun, hw, hr, if_neg hk]
  have hdatanak : ∀ n m, run.refused = true → 0 < run.acknowledged →
      r.dataAcknowledged run.acknowledged = n → r.bytesDone + n = m →
      result = .next (ended .datanak m) := fun n m hn ha hdata hm => by
    rw [hresult, segmentEnds_datanak hn ha, hdata, ← hm]
    exact congrArg _ (congrArg (State.checkDrain · lines)
      (complete_bytes (by simpa using hr) (carried_raised hk n)))
  refine ⟨fun hn ha => hresult.trans (congrArg _ ?_), fun hn ha hle => ?_, fun n hn ha => ?_, ?_⟩
  · rw [State.segmentEnds, if_pos hn, if_pos ha, retryRecord_setGiven]
  · exact hdatanak 0 _ hn ha (by rw [Record.dataAcknowledged]; omega) rfl
  · exact hdatanak n _ hn (by omega) (by rw [Record.dataAcknowledged]; omega) rfl
  · intro raised v
    have hsent : run.refused = false → (s.setGiven b ⟨stored.speed, run.given⟩).segmentEnds b p r run lines =
        (s.setGiven b ⟨stored.speed, run.given⟩).segmentSent b p r lines := fun hn => by
      rw [State.segmentEnds, hn, if_neg Bool.false_ne_true]
    refine ⟨fun hn hp => hresult.trans (congrArg _ ?_), fun hn hp => hresult.trans (congrArg _ ?_)⟩
    · rw [hsent hn, segmentSent_poll (by simpa [State.setGiven] using hw) hp, State.setGiven,
        State.engine_setEngine_self]
      rfl
    · rw [hsent hn, segmentSent_boundary hp]
      rfl

/-! ### Polls and the waits of 1 ms (R96, R97) -/

theorem pollRefused_setGiven (s : State) (b : BusIx) (p : PoolIx) (r : Record) (began : Nat) (g : BusPlan)
    (lines : LineLevels) : (s.setGiven b g).pollRefused b p r began lines =
      if s.now - began < r.snapshot.pollLimit then
        s.setEngine b { s.engine b with given := g, state := .active (.pollWait (s.now + 1) began) }
      else ((s.setEngine b { s.engine b with given := g, state := .idle, work := .none }).complete p
        .busytimeout r.bytesDone).checkDrain lines := by
  rw [State.pollRefused, State.endRecord, engineIdle_setGiven]
  have hnow : (s.setGiven b g).now = s.now := rfl
  rw [hnow]
  split
  · simp [State.setGiven, State.setEngineState, Config.retryWait]
  · rfl

/-- Settles O51: the poll by its byte, and each wait by the line check that follows it. -/
theorem pollsAndRetryWaits : Obligations.PollsAndRetryWaits := by
  intro s b p r lines hw hr e
  refine ⟨fun began stored readings run hu hrun => ?_, fun d began he => congrArg Host.Outcome.next
    (?_ : s.pollWaitExpires b lines = _), fun d he => congrArg Host.Outcome.next
    (?_ : s.retryWaitExpires b lines = _)⟩
  · intro e result
    have hresult : result = .next (if run.refused
        then (s.setGiven b ⟨stored.speed, run.given⟩).pollRefused b p r began lines
        else (s.setGiven b ⟨stored.speed, run.given⟩).segmentBoundary b p r lines) := by
      refine congrArg Host.Outcome.next (?_ : s.busyPollEnds b readings lines = _)
      simp only [State.busyPollEnds, attemptRun_eq hu hrun, hw, hr]
    refine ⟨fun hn => hresult.trans (congrArg _ ?_), fun hn => hresult.trans (congrArg _ ?_)⟩
    · rw [hn, if_neg Bool.false_ne_true]
      rfl
    · rw [if_pos hn, pollRefused_setGiven]
  · simp only [State.pollWaitExpires, show (s.engine b).state = _ from he, lineCheck_eq_setEngine]
    rw [planFor_poll (s := s.advanceTo d) hw hr]
    rfl
  · simp only [State.retryWaitExpires, show (s.engine b).state = _ from he, lineCheck_eq_setEngine]
    rw [planFor_operation (s := s.advanceTo d) hw hr]
    rfl

end Sys2Proof.Machine

/-! The course of a recovery and the stretch fault (R90, R92, O52), the entry into FAULT (R99, R100, O53)
and the end of a restore (R102, R103, O54). -/

namespace Sys2Proof.Machine

variable {s v : State} {b : BusIx} {p : PoolIx} {r : Record} {lines : LineLevels} {l k : Link}
  {a : Attempt} {stored : BusPlan} {run : BusRun} {g : BusPlan} {f : Frame} {rest : List Frame}
  {met : List LineLevels} {rec : Recovery}

/-! ### The course of a recovery (R90) -/

/-- R90.3: pulses that find the data line low, before what comes after them. -/
theorem recoveryPulses_low {n left : Nat} (h : recoveryPulses left met = some rec) :
    recoveryPulses (left + n) (List.replicate n .dataLow ++ met) =
      some { rec with given := List.replicate n .pulse ++ rec.given } := by
  induction n with
  | zero => exact h
  | succ n ih =>
    rw [List.replicate_succ, List.cons_append, ← Nat.add_assoc, recoveryPulses, ih]
    rfl

theorem runRecovery_low {n : Nat} (hn : n ≤ 9) (h : recoveryPulses (9 - n) met = some rec) :
    runRecovery (.dataLow :: List.replicate n .dataLow ++ met) =
      some { rec with given := .release :: List.replicate n .pulse ++ rec.given } := by
  have hlow := recoveryPulses_low (n := n) h
  rw [Nat.sub_add_cancel hn] at hlow
  rw [List.cons_append, runRecovery, recoveryPulseLimit, hlow]
  rfl

theorem replicate_append_cons {α : Type} (n : Nat) (x : α) (xs : List α) :
    List.replicate n x ++ x :: xs = List.replicate (n + 1) x ++ xs := by
  rw [List.replicate_succ', List.append_assoc]
  rfl

/-- R90.3: after some pulses with the data line low, one more may find it high. -/
theorem runRecovery_pulses {n : Nat} (hn : n < 9) {x : LineLevels} {tail : List BusElement}
    {result : RecoveryResult}
    (h : ∀ left, recoveryPulses (left + 1) (x :: met) = some ⟨.pulse :: tail, result⟩) :
    runRecovery (.dataLow :: List.replicate n .dataLow ++ x :: met) =
      some ⟨.release :: List.replicate (n + 1) .pulse ++ tail, result⟩ := by
  obtain ⟨left, hleft⟩ := Nat.exists_eq_add_of_lt hn
  rw [runRecovery_low (rec := ⟨.pulse :: tail, result⟩) (Nat.le_of_lt hn)
    (by rw [show 9 - n = left + 1 by omega]; exact h left)]
  simp only [List.cons_append, replicate_append_cons]

/-! ### A recovery that ends (R89, R92) -/

theorem recoveryEnds_eq (hm : runRecovery met = some rec) (hs : (s.engine b).state.mayRecover = true) :
    s.recoveryEnds b met lines = (s.setGiven b ⟨0, rec.given⟩).recoveryOutcome b rec.result lines := by
  simp only [State.recoveryEnds, hm, hs, if_true]

theorem state_setGiven (s : State) (b : BusIx) (g : BusPlan) :
    ((s.setGiven b g).engine b).state = (s.engine b).state := by
  simp [State.setGiven]

theorem keepStretched_eq (hw : (s.engine b).work = .record p) (hr : s.record p = some r) :
    s.keepStretched b a run = match a, r.kind with
      | .operation, .write => s.setRecord p (some { r with
          bytesDone := r.bytesDone + (run.acknowledged - (1 + r.snapshot.offsetWidth)) })
      | .operation, .read => s.setRecord p (some { r with data := run.data })
      | _, _ => s := by
  cases a with
  | poll => simp only [State.keepStretched]
  | operation =>
    simp only [State.keepStretched, hw, hr]
    cases hk : r.kind with
    | read => simp only [Record.cutOff, hk, if_true]
    | write => simp [Record.cutOff, Record.raised, Record.dataAcknowledged, hk]
    | store =>
      have hsame : r.cutOff run = r := by simp [Record.cutOff, Record.raised, hk]
      rw [hsame, ← hr]
      refine congrArg (fun x => { s with pool := x }) (Vector.ext fun k hk => ?_)
      by_cases hkp : p.val = k
      · subst hkp
        simp [State.record]
      · simp [Vector.getElem_set_ne _ _ hkp]

theorem stretchFault_eq (hu : s.underway b = some (a, stored)) {point : StretchPoint}
    (hr : StretchedAt stored.elements point run) : s.stretchFault b point =
      ((s.keepStretched b a run).setGiven b ⟨stored.speed, run.given⟩).setEngineState b
        (.recovering .stretch) := by
  simp only [State.stretchFault, hu, runToStretch_iff.mpr hr]

theorem engine_keepStretched (s : State) (b : BusIx) (a : Attempt) (run : BusRun) (k : BusIx) :
    (s.keepStretched b a run).engine k = s.engine k := by
  unfold State.keepStretched
  split
  · split
    · simp
    · rfl
  · rfl

/-- R71, R72, R97: what an attempt at a record gives on the bus. -/
theorem planFor_record (hw : (s.engine b).work = .record p) (hr : s.record p = some r) (a : Attempt) :
    s.planFor b a = match a, r.kind with
      | .poll _, _ => pollPlan r.snapshot
      | .operation, .read => readPlan r.snapshot r.offset r.count
      | .operation, _ => writePlan r.snapshot r.nextStart (r.segmentData s.imageBuffer) := by
  cases a with
  | poll began => rw [planFor_poll hw hr]
  | operation =>
    rw [planFor_operation hw hr]
    cases r.kind <;> rfl

theorem lineRecoveryEnds_setGiven (s : State) (b : BusIx) (a : Attempt) (g : BusPlan)
    (result : RecoveryResult) (lines : LineLevels) :
    (s.setGiven b g).lineRecoveryEnds b a result lines = match result with
      | .success => s.setEngine b { s.engine b with given := g, state := .active (.onBus a (s.planFor b a)) }
      | .clockFailed => (s.setGiven b g).enterFault b .stuckClock .busfault lines
      | .dataFailed => (s.setGiven b g).enterFault b .stuckData .busfault lines := by
  cases result with
  | success =>
    have hplan : (s.setGiven b g).planFor b a = s.planFor b a := planFor_setEngine s b _ a rfl
    simp only [State.lineRecoveryEnds, State.beginAttempt, hplan]
    simp [State.setEngineState, State.setGiven]
  | clockFailed | dataFailed => rfl

theorem stretchRecoveryEnds_setGiven (hw : (s.engine b).work = .record p) (hr : s.record p = some r)
    (result : RecoveryResult) : (s.setGiven b g).stretchRecoveryEnds b result lines =
      if result = .success then
        ((s.setEngine b { s.engine b with given := g, state := .idle, work := .none }).complete p .timeout
          r.bytesDone).checkDrain lines
      else (s.setGiven b g).enterFault b .stretch .timeout lines := by
  have hw' : ((s.setGiven b g).engine b).work = .record p := by simpa [State.setGiven] using hw
  have hr' : (s.setGiven b g).record p = some r := hr
  cases result with
  | success =>
    simp only [State.stretchRecoveryEnds, State.stretchRecovered, hw', hr', State.endRecord,
      engineIdle_setGiven, if_true]
  | clockFailed | dataFailed => simp [State.stretchRecoveryEnds]

/-- Settles O52: the course of a recovery by what it meets, and the ends of the two that a record can
meet. -/
theorem stretchAndRecovery : Obligations.StretchAndRecovery := by
  refine ⟨fun last result h => ⟨?_, fun n hn => ?_⟩, rfl, fun n hn => ?_, rfl,
    fun s b p r lines hw hr => ?_⟩
  · rcases h with ⟨rfl, rfl⟩ | ⟨rfl, rfl⟩ | ⟨rfl, rfl⟩ <;> rfl
  · refine runRecovery_pulses hn fun left => ?_
    rcases h with ⟨rfl, rfl⟩ | ⟨rfl, rfl⟩ | ⟨rfl, rfl⟩ <;> rfl
  · rw [runRecovery_pulses (met := []) (tail := []) hn fun left => rfl, List.append_nil]
  intro e
  refine ⟨fun a stored point run hu hst => ?_, fun met rec hm => ?_⟩
  · intro n v
    refine congrArg Host.Outcome.next ((stretchFault_eq hu hst).trans ?_)
    rw [State.setEngineState, State.setGiven, engine_keepStretched, keepStretched_eq hw hr]
    simp
    rfl
  · intro e' v result
    have hresult : e.state.mayRecover = true → result =
        .next ((s.setGiven b ⟨0, rec.given⟩).recoveryOutcome b rec.result lines) :=
      fun hs => congrArg Host.Outcome.next (recoveryEnds_eq hm hs)
    refine ⟨fun hs => ?_, fun a hs => ?_⟩
    · rw [hresult (by rw [hs]; rfl), State.recoveryOutcome, state_setGiven,
        show (s.engine b).state = _ from hs]
      exact congrArg _ (stretchRecoveryEnds_setGiven hw hr rec.result)
    · have hends : (s.setGiven b ⟨0, rec.given⟩).recoveryOutcome b rec.result lines =
          (s.setGiven b ⟨0, rec.given⟩).lineRecoveryEnds b a rec.result lines := by
        rw [State.recoveryOutcome, state_setGiven]
        rcases hs with hs | hs <;> rw [show (s.engine b).state = _ from hs]
      rw [hresult (by rcases hs with hs | hs <;> rw [hs] <;> rfl), hends, lineRecoveryEnds_setGiven,
        planFor_record hw hr]
      cases rec.result <;> rfl

end Sys2Proof.Machine

/-! The entry into FAULT (R99, R100, R82, O53) and BUS-RESTORE with the end of its recovery (R102, R103,
O54). -/

namespace Sys2Proof.Machine

variable {s v : State} {b : BusIx} {p : PoolIx} {r : Record} {lines : LineLevels} {l k : Link}
  {g : BusPlan} {f : Frame} {rest : List Frame} {met : List LineLevels} {rec : Recovery}

/-! ### FAULT (R99, R100) -/

/-- R100: the session of a link is concerned where it owns a WAITING or HELD slot on the bus. -/
theorem mem_concernedSessions : l ∈ s.concernedSessions b ↔ s.session l ≠ .closed ∧ ∃ i t g,
    ((∃ w, (s.slot i).body = .waiting w ∧ w.owner = l ∧ w.target = t) ∨
      ∃ h, (s.slot i).body = .held h ∧ h.owner = l ∧ h.target = t) ∧
    (s.entry t).body.fields? = some g ∧ g.busIx = b := by
  simp only [State.concernedSessions, State.concernedBy, linkIndices, slotIndices, List.mem_filter,
    List.mem_finRange, true_and, Bool.and_eq_true, Bool.not_eq_true', List.any_eq_true]
  refine and_congr (by rw [← Bool.not_eq_true, isClosed_iff]) (exists_congr fun i => ?_)
  cases hb : (s.slot i).body with
  | waiting w =>
    cases hf : (s.entry w.target).body.fields? <;> simp [hf]
  | held h =>
    cases hf : (s.entry h.target).body.fields? <;> simp [hf]
  | free | ending => simp

theorem loadFailed_eq {j : LoadJob} (hj : s.load = some j) (why : LoadFailure) :
    s.loadFailed why = s.endLoad (if j.stage = .signature then
      if why = .busFault then .busFault else .noStore else .partialLoad) := by
  unfold State.loadFailed
  rw [hj]
  obtain ⟨stage, targets, rights⟩ := j
  cases stage <;> rfl

/-- Settles O53: the engine, its work, its queue and the notices, in their order. -/
theorem faultEntryByRule : Obligations.FaultEntryByRule := by
  intro s b lines
  refine ⟨fun a ha => congrArg Host.Outcome.next (?_ : s.clockStuck b lines = _),
    fun l => mem_concernedSessions, fun reason status => ?_⟩
  · simp only [State.clockStuck, ha]
  · intro v finish
    refine ⟨fun p r hw hr => ?_, fun j hw hj => ?_⟩
    · have hr' : (s.setFault b reason).record p = some r := hr
      simp only [State.enterFault, State.failWork, hw, hr']
      rfl
    · have hj' : (s.setFault b reason).load = some j := hj
      simp only [State.enterFault, State.failWork, hw, loadFailed_eq hj', if_true]
      rfl

/-! ### BUS-RESTORE (R102) -/

theorem exec_busRestore (ha : s.Admits l .busRestore f rest) :
    exec (.busRestore l) s = .next (serveBusRestore l f (s.taking l rest)) :=
  congrArg _ (serve_admits ha serveBusRestore)

/-! ### The end of a restore (R103) -/

/-- One element alone of a list answers. -/
theorem findSome?_only {α β : Type} [DecidableEq α] {x : α} {y : β} {xs : List α} (h : x ∈ xs) :
    xs.findSome? (fun k => if k = x then some y else none) = some y := by
  induction xs with
  | nil => cases h
  | cons k xs ih =>
    rw [List.findSome?_cons]
    by_cases hk : k = x
    · rw [if_pos hk]
    · rw [if_neg hk]
      exact ih ((List.mem_cons.mp h).resolve_left (Ne.symm hk))

/-- R102: the link that a bus is restored for, where no other is. -/
theorem restoreHolder_eq {tag : Byte} (hl : (s.link l).restoreHold = some (b, tag))
    (hk : ∀ k, k ≠ l → ∀ x, (s.link k).restoreHold ≠ some (b, x)) :
    s.restoreHolder b = some (l, tag) := by
  have hfind : ∀ k, (match (s.link k).restoreHold with
      | some (b', tag) => if b' = b then some (k, tag) else none
      | none => none) = if k = l then some (l, tag) else none := fun k => by
    by_cases hkl : k = l
    · subst hkl
      simp [hl]
    · rw [if_neg hkl]
      cases hh : (s.link k).restoreHold with
      | none => rfl
      | some x =>
        obtain ⟨b', tag'⟩ := x
        have hne : b' ≠ b := fun h => hk k hkl tag' (by rw [hh, h])
        simp [hne]
  rw [State.restoreHolder]
  exact (congrArg (linkIndices.findSome? ·) (funext hfind)).trans (findSome?_only (List.mem_finRange l))

/-- A completion leaves the hold of every intake. -/
theorem restoreHold_route (s : State) (p : PoolIx) (r : Record) (d : Bool) (k : Link) :
    ((s.route p r d).link k).restoreHold = (s.link k).restoreHold := by
  unfold State.route State.offerCompletion
  have hpush : ∀ l x, ((s.pushOutbound l x).link k).restoreHold = (s.link k).restoreHold := fun l x => by
    rw [State.pushOutbound, State.link_setLink]
    split
    · subst_vars
      rfl
    · rfl
  split
  · simp
  split
  · simp
  split
  · split
    · simp [hpush]
    · simp
  · simp
  · simp

theorem restoreHold_complete (s : State) (p : PoolIx) (st : Status) (n : Nat) (k : Link) :
    ((s.complete p st n).link k).restoreHold = (s.link k).restoreHold := by
  unfold State.complete
  split
  · rfl
  · dsimp only
    split
    · rw [restoreHold_route]
      obtain ⟨-, -, -, -, -, -, hlink⟩ := clearFlight_frame (s.setRecord p (some (‹Record›.completed st n)))
        ‹Handle›
      rw [hlink]
      rfl
    · rw [restoreHold_route]
      rfl

/-- R82: the queued records that complete leave the holds and the places kept for answers. -/
theorem failQueue_links (ps : List PoolIx) (s : State) (k : Link) :
    ((s.failQueue ps).link k).restoreHold = (s.link k).restoreHold ∧
      ((s.failQueue ps).link k).reserved = (s.link k).reserved := by
  refine foldl_keep (P := fun v => (v.link k).restoreHold = (s.link k).restoreHold ∧
    (v.link k).reserved = (s.link k).reserved) _ (fun v p h => ?_) s ps ⟨rfl, rfl⟩
  obtain ⟨-, -, -, -, -, hreserved⟩ := complete_frame v p .busfault 0
  exact ⟨(restoreHold_complete v p _ _ k).trans h.1, (hreserved k).trans h.2⟩

/-- R103: the response of a restore, where the place kept for it is still there. -/
theorem answerRestore_eq {tag : Byte} (hh : s.restoreHolder b = some (l, tag)) (before : Link → Nat)
    (status : Status) (body : List Byte) : s.answerRestore b before status body =
      let w := s.setLink l { s.link l with restoreHold := none }
      if (s.link l).reserved then w.answerAmong (before l) l tag status body else w := by
  simp only [State.answerRestore, hh]

/-- R103: with no completion handed to the link in the event the response goes to the tail. -/
theorem answerRestore_tail {tag : Byte} (hh : s.restoreHolder b = some (l, tag)) {before : Link → Nat}
    (hb : (s.link l).outbound.length ≤ before l) (status : Status) (body : List Byte) :
    s.answerRestore b before status body = s.setLink l (if (s.link l).reserved then { s.link l with
        outbound := (s.link l).outbound ++ [⟨tag, status, body⟩], reserved := false, restoreHold := none }
      else { s.link l with restoreHold := none }) := by
  rw [answerRestore_eq hh]
  by_cases hres : (s.link l).reserved = true
  · simp only [if_pos hres]
    rw [answerAmong_eq_answer (by simpa using hb)]
    simp [State.answer]
  · simp only [if_neg hres]

/-- Settles O54: the request by the state of the engine, and the end of its recovery by how it went. -/
theorem busRestoreByRule : Obligations.BusRestoreByRule := by
  refine ⟨fun s l f rest ha => ?_, fun s l b tag lines met rec hs hl hk hm => ?_⟩
  · intro u
    refine ⟨fun hb => ?_, fun b hb => ?_⟩
    · rw [exec_busRestore ha, serveBusRestore, busOf_eq_none hb]
    · rw [exec_busRestore ha, serveBusRestore, busOf_eq_some hb]
      refine congrArg _ ?_
      by_cases hf : (s.engine b).state = .fault
      · rw [if_pos hf]
        dsimp only
        rw [if_pos ((busFaulted_iff (s := u)).mpr hf)]
        rfl
      · rw [if_neg hf]
        dsimp only
        rw [if_neg (mt (busFaulted_iff (s := u)).mp hf)]
  · intro e u done
    have hexec : ∀ {w}, (s.setGiven b ⟨0, rec.given⟩).restoreEnds b rec.result = w →
        exec (.recoveryEnd b met lines) s = .next w := fun {w} h => by
      refine congrArg Host.Outcome.next ((recoveryEnds_eq hm (by rw [hs]; rfl)).trans ?_)
      rw [State.recoveryOutcome, state_setGiven, hs]
      exact h
    refine ⟨fun hr => hexec ?_, fun reason hr => ?_⟩
    · have hholder : ((s.setGiven b ⟨0, rec.given⟩).engineIdle b).restoreHolder b = some (l, tag) :=
        restoreHolder_eq (s := (s.setGiven b ⟨0, rec.given⟩).engineIdle b) hl hk
      have hdone : ((s.setGiven b ⟨0, rec.given⟩).engineIdle b).answerRestore b
          (fun l => (s.link l).outbound.length) .ok [] = done := by
        refine (answerRestore_tail hholder (Nat.le_refl _) .ok []).trans ?_
        rw [engineIdle_setGiven]
        rfl
      rw [hr, State.restoreEnds]
      exact congrArg (fun x => State.busNotices x b .busRestored (x.concernedSessions b)) hdone
    · have hreason : recoveryReason rec.result = reason := by
        rcases hr with ⟨hr, rfl⟩ | ⟨hr, rfl⟩ <;> rw [hr] <;> rfl
      intro v w
      refine hexec ?_
      have hends : (s.setGiven b ⟨0, rec.given⟩).restoreEnds b rec.result = v.answerRestore b
          (fun l => (s.link l).outbound.length) .failed [reason.code] := by
        have hv : ((s.setGiven b ⟨0, rec.given⟩).setFault b reason).failQueue (s.busQueue b) = v := by
          simp only [State.setFault, State.setGiven, State.setEngine_setEngine,
            State.engine_setEngine_self]
          rfl
        rw [← hv, ← hreason]
        rcases hr with ⟨hr, -⟩ | ⟨hr, -⟩ <;> rw [hr] <;> rfl
      have hlinks : ∀ k, (v.link k).restoreHold = (s.link k).restoreHold ∧
          (v.link k).reserved = (s.link k).reserved := failQueue_links (s.busQueue b) _
      have hholder : v.restoreHolder b = some (l, tag) :=
        restoreHolder_eq ((hlinks l).1.trans hl) fun k hne x => (hlinks k).1 ▸ hk k hne x
      rw [hends, answerRestore_eq hholder, (hlinks l).2]

end Sys2Proof.Machine

/-! The image load (R138, R139, O39): each end of a load operation, with B0 IDLE before the next one is
handed to it. -/

namespace Sys2Proof.Machine

variable {s x : State} {E : Engine} {j : LoadJob} {lines : LineLevels} {stored : BusPlan}
  {readings : List Bool} {run : BusRun} {g : BusPlan} {a : Attempt}

/-! ### The next operation, on an IDLE engine -/

section Idle

variable (hE : E.state = .idle) (hj : x.load = some j)

include hE hj

theorem handLoadOperation_idle (stage : LoadStage) :
    (x.setEngine 0 E).handLoadOperation stage lines =
      (x.setLoad (some { j with stage := stage })).setEngine 0 ⟨engineAfterCheck .operation
        (readPlan storeSnapshot stage.extent.1 stage.extent.2) lines, E.lastFault, .load, 0, E.given⟩ := by
  have hj' : (x.setEngine 0 E).load = some j := hj
  have hengine : (((x.setEngine 0 E).setLoad (some { j with stage := stage })).engine 0) = E := by simp
  simp only [State.handLoadOperation, hj']
  rw [takeLoadOperation_idle (by rw [hengine]; exact hE) rfl, hengine]
  exact State.setEngine_setEngine (s := x.setLoad (some { j with stage := stage })) ..

theorem nextBlock_idle (offset : Nat) : (x.setEngine 0 E).nextBlock offset lines =
    if 4096 ≤ offset then (x.setEngine 0 E).endLoad .partialLoad
    else if offset = 4095 then
      (x.setLoad (some { j with stage := .lastByte })).setEngine 0 ⟨engineAfterCheck .operation
        (readPlan storeSnapshot 4095 1) lines, E.lastFault, .load, 0, E.given⟩
    else (x.setLoad (some { j with stage := .header offset })).setEngine 0 ⟨engineAfterCheck .operation
        (readPlan storeSnapshot offset 2) lines, E.lastFault, .load, 0, E.given⟩ := by
  simp only [State.nextBlock, handLoadOperation_idle hE hj]
  rfl

end Idle

theorem classifyBlock_setEngine (x : State) (E : Engine) (j : LoadJob) (offset : Nat) (block : List Byte) :
    (x.setEngine 0 E).classifyBlock j offset block = (x.classifyBlock j offset block).setEngine 0 E := by
  have hjudge : (x.setEngine 0 E).judgeBlock j block = x.judgeBlock j block := rfl
  simp only [State.classifyBlock, hjudge]
  cases x.judgeBlock j block <;> rfl

/-! ### The end of an operation of the load (R94, R96, R98) -/

/-- B0 after a load operation that gave `g` is over. -/
def Engine.loadOver (e : Engine) (g : BusPlan) : Engine :=
  ⟨.idle, e.lastFault, .none, e.retriesUsed, g⟩

theorem engineIdle_load (s : State) (g : BusPlan) :
    (s.setGiven 0 g).engineIdle 0 = s.setEngine 0 ((s.engine 0).loadOver g) := by
  rw [engineIdle_setGiven]
  rfl

theorem loadEnds_refused (hj : s.load = some j) (hn : run.refused = true) :
    (s.setGiven 0 g).loadEnds 0 run lines =
      if (s.engine 0).retriesUsed < 3 then s.setEngine 0 { s.engine 0 with
        retriesUsed := (s.engine 0).retriesUsed + 1, state := .active (.retryWait (s.now + 1)), given := g }
      else (s.setEngine 0 ((s.engine 0).loadOver g)).endLoad
        (if j.stage = .signature then .noStore else .partialLoad) := by
  have hused : ((s.setGiven 0 g).engine 0).retriesUsed = (s.engine 0).retriesUsed := by simp [State.setGiven]
  have hlimit : storeSnapshot.retryLimit = 3 := rfl
  rw [State.loadEnds, if_pos hn, State.retry?, hused, hlimit]
  by_cases hlt : (s.engine 0).retriesUsed < 3
  · simp only [if_pos hlt]
    simp [State.setGiven, Config.retryWait]
  · simp only [if_neg hlt, engineIdle_load]
    rw [loadFailed_eq (s := s.setEngine 0 _) hj]
    simp

theorem loadEnds_ok (hn : run.refused = false) : (s.setGiven 0 g).loadEnds 0 run lines =
    (s.setEngine 0 ((s.engine 0).loadOver g)).loadAdvance run.data lines := by
  rw [State.loadEnds, hn, if_neg Bool.false_ne_true, engineIdle_load]

section Advance

variable {data : List Byte}

theorem loadAdvance_signature (hE : E.state = .idle) (hj : s.load = some j) (hs : j.stage = .signature) :
    (s.setEngine 0 E).loadAdvance data lines = if data = [0xA4, 0x16] then
        (s.setLoad (some { j with stage := .header 2 })).setEngine 0 ⟨engineAfterCheck .operation
          (readPlan storeSnapshot 2 2) lines, E.lastFault, .load, 0, E.given⟩
      else (s.setEngine 0 E).endLoad .noSignature := by
  have hj' : (s.setEngine 0 E).load = some j := hj
  simp only [State.loadAdvance, hj', hs, nextBlock_idle hE hj]
  rfl

theorem loadAdvance_header {offset : Nat} (hE : E.state = .idle) (hj : s.load = some j)
    (hs : j.stage = .header offset) : (s.setEngine 0 E).loadAdvance data lines =
      if byteAt data 0 = 0 then (s.setEngine 0 E).endAtEnd
      else if 4096 < offset + (byteAt data 1).toNat + 4 then (s.setEngine 0 E).endLoad .partialLoad
      else ((s.setImage data).setLoad (some { j with stage := .body offset (byteAt data 1).toNat 0 }
        )).setEngine 0 ⟨engineAfterCheck .operation (readPlan storeSnapshot (offset + 2)
          (min 64 ((byteAt data 1).toNat + 2))) lines, E.lastFault, .load, 0, E.given⟩ := by
  have hj' : (s.setEngine 0 E).load = some j := hj
  have hhand := handLoadOperation_idle (lines := lines) (x := s.setImage data) hE hj
    (.body offset (byteAt data 1).toNat 0)
  simp only [State.loadAdvance, hj', hs, State.headerRead]
  rw [show (s.setEngine 0 E).setImage data = (s.setImage data).setEngine 0 E from rfl, hhand]
  rfl

theorem loadAdvance_lastByte (hj : s.load = some j) (hs : j.stage = .lastByte) :
    (s.setEngine 0 E).loadAdvance data lines = if byteAt data 0 = 0 then (s.setEngine 0 E).endAtEnd
      else (s.setEngine 0 E).endLoad .partialLoad := by
  have hj' : (s.setEngine 0 E).load = some j := hj
  simp only [State.loadAdvance, hj', hs]

theorem loadAdvance_body {offset len got : Nat} (hj : s.load = some j)
    (hs : j.stage = .body offset len got) : (s.setEngine 0 E).loadAdvance data lines =
      if got + data.length < len + 2 then
        ((s.setImage (s.imageBuffer ++ data)).setEngine 0 E).handLoadOperation
          (.body offset len (got + data.length)) lines
      else (((s.setImage (s.imageBuffer ++ data)).classifyBlock j offset (s.imageBuffer ++ data)
        ).setEngine 0 E).nextBlock (offset + len + 4) lines := by
  have hj' : (s.setEngine 0 E).load = some j := hj
  simp only [State.loadAdvance, hj', hs, State.bodyRead]
  rw [← classifyBlock_setEngine]
  rfl

end Advance

/-! ### Recovery and retries within a load -/

section Load

variable (hw : (s.engine 0).work = .load) (hj : s.load = some j)

include hw hj

theorem planFor_load (a : Attempt) :
    s.planFor 0 a = readPlan storeSnapshot j.stage.extent.1 j.stage.extent.2 := by
  simp only [State.planFor, hw, hj]

theorem stretchRecoveryEnds_load (result : RecoveryResult) :
    (s.setGiven 0 g).stretchRecoveryEnds 0 result lines = if result = .success then
        (s.setEngine 0 ((s.engine 0).loadOver g)).endLoad
          (if j.stage = .signature then .noStore else .partialLoad)
      else (s.setGiven 0 g).enterFault 0 .stretch .timeout lines := by
  have hw' : ((s.setGiven 0 g).engine 0).work = .load := by simpa [State.setGiven] using hw
  cases result with
  | success =>
    simp only [State.stretchRecoveryEnds, State.stretchRecovered, hw', engineIdle_load, if_true]
    rw [loadFailed_eq (s := s.setEngine 0 _) hj]
    simp
  | clockFailed | dataFailed => simp [State.stretchRecoveryEnds]

end Load

/-- Settles O39: each end of a load operation, by the stage of the load. -/
theorem loadAdvances : Obligations.LoadAdvances := by
  intro s j lines hw hj e plan next ended failed atEnd
  have hidle : ∀ g, (e.loadOver g).state = .idle := fun _ => rfl
  refine ⟨fun stored readings run hu hrun => ?_, fun a stored point run hu hst => ?_, fun d hs => ?_,
    fun met rec hm => ?_⟩
  · intro g data result
    have hresult : result = .next ((s.setGiven 0 g).loadEnds 0 run lines) := by
      refine congrArg Host.Outcome.next (?_ : s.readOperationEnds 0 readings lines = _)
      simp only [State.readOperationEnds, attemptRun_eq hu hrun, hw]
      rfl
    refine ⟨fun hn => hresult.trans (congrArg _ ?_), fun hn => ?_⟩
    · exact loadEnds_refused hj hn
    have hok : ∀ {w}, (s.setEngine 0 (e.loadOver g)).loadAdvance run.data lines = w → result = .next w :=
      fun h => hresult.trans (congrArg _ ((loadEnds_ok hn).trans h))
    refine ⟨fun hs _ => hok ?_, fun offset hs _ => ?_, fun hs _ => hok ?_, fun offset len got hs _ => ?_⟩
    · exact loadAdvance_signature (hidle g) hj hs
    · exact hok (loadAdvance_header (hidle g) hj hs)
    · rw [loadAdvance_lastByte hj hs]
      exact (apply_ite (ended s g) _ _ _).symm
    · intro block v
      refine ⟨fun hmore => hok ?_, fun hwhole => ?_⟩
      · rw [loadAdvance_body hj hs, if_pos hmore]
        exact handLoadOperation_idle (x := v) (hidle g) hj _
      · intro w after
        obtain ⟨k, hk⟩ := classifyBlock_load v j offset block hj
        refine ⟨k, hk, hok ?_⟩
        rw [loadAdvance_body hj hs, if_neg (Nat.not_lt.mpr hwhole)]
        exact nextBlock_idle (x := w) (hidle g) hk _
  · refine congrArg Host.Outcome.next ((stretchFault_eq hu hst).trans ?_)
    have hkeep : s.keepStretched 0 a run = s := by
      cases a <;> simp only [State.keepStretched, hw]
    rw [hkeep]
    simp [State.setGiven, State.setEngineState, e]
  · refine congrArg Host.Outcome.next (?_ : s.retryWaitExpires 0 lines = _)
    simp only [State.retryWaitExpires, show (s.engine 0).state = _ from hs, lineCheck_eq_setEngine]
    rw [planFor_load (s := s.advanceTo d) hw hj]
    rfl
  · intro given v result
    have hresult : e.state.mayRecover = true → result =
        .next ((s.setGiven 0 given).recoveryOutcome 0 rec.result lines) :=
      fun hs => congrArg Host.Outcome.next (recoveryEnds_eq hm hs)
    refine ⟨fun hs => ?_, fun hs => ?_⟩
    · rw [hresult (by rw [hs]; rfl), State.recoveryOutcome, state_setGiven,
        show (s.engine 0).state = _ from hs]
      exact congrArg _ (stretchRecoveryEnds_load hw hj rec.result)
    · have hends : (s.setGiven 0 given).recoveryOutcome 0 rec.result lines =
          (s.setGiven 0 given).lineRecoveryEnds 0 .operation rec.result lines := by
        rw [State.recoveryOutcome, state_setGiven]
        rcases hs with hs | hs <;> rw [show (s.engine 0).state = _ from hs]
      rw [hresult (by rcases hs with hs | hs <;> rw [hs] <;> rfl), hends, lineRecoveryEnds_setGiven,
        planFor_load hw hj]
      cases rec.result <;> rfl

end Sys2Proof.Machine

/-! The Formats of 9.9: target fields and request frames read back as they were written (O55). -/

namespace Sys2Proof.Machine

variable {s : State} {l : Link} {f : Frame}

/-! ### Target fields (Table 9-4) -/

theorem byteAt_append (front bs rest : List Byte) {k : Nat} (hk : k < bs.length) :
    byteAt (front ++ bs ++ rest) (front.length + k) = byteAt bs k := by
  rw [byteAt, byteAt, List.append_assoc, List.getD_append_right _ _ _ _ (by omega),
    Nat.add_sub_cancel_left, List.getD_append _ _ _ _ hk]

theorem toNat_byteOf {n : Nat} (h : n < 256) : (byteOf n).toNat = n :=
  Nat.mod_eq_of_lt h

theorem wordOf_bytes {n : Nat} (h : n < 65536) : wordOf (byteOf (n / 256)) (byteOf n) = n := by
  simp only [wordOf, byteOf, BitVec.toNat_ofNat]
  omega

theorem nibbles {high low : Nat} (hh : high < 16) (hl : low < 16) :
    highNibble (byteOf (high * 16 + low)) = high ∧ lowNibble (byteOf (high * 16 + low)) = low := by
  rw [highNibble, lowNibble, toNat_byteOf (by omega)]
  omega

theorem fieldsAt_bytes (fields : TargetFields) (front rest : List Byte) (h : fields.valid = true) :
    fieldsAt (front ++ fieldBytes fields ++ rest) front.length = fields := by
  have hbyte : ∀ k, k < 14 → byteAt (front ++ fieldBytes fields ++ rest) (front.length + k) =
      byteAt (fieldBytes fields) k := fun k hk => byteAt_append front _ rest hk
  have hfirst := hbyte 0 (by decide)
  obtain ⟨bus, speed, address, width, page, capacity, poll, retry, cls, term, maxTerm, warn, qlim⟩ := fields
  simp [TargetFields.valid, TargetFields.capacity] at h
  have hbus := nibbles (high := bus) (low := speed) (by omega) (by omega)
  have hwidth := nibbles (high := width) (low := page) (by omega) (by omega)
  have hretry := nibbles (high := retry) (low := cls) (by omega) (by omega)
  simp (disch := decide) only [fieldsAt, wordAt, Nat.add_assoc, Nat.reduceAdd, hbyte]
  rw [show byteAt _ front.length = _ from hfirst]
  exact TargetFields.mk.injEq .. ▸ ⟨hbus.1, hbus.2, toNat_byteOf (n := address) (by omega), hwidth.1,
    hwidth.2, wordOf_bytes (n := capacity) (by omega), toNat_byteOf (n := poll) (by omega), hretry.1,
    hretry.2, wordOf_bytes (n := term) (by omega), wordOf_bytes (n := maxTerm) (by omega),
    wordOf_bytes (n := warn) (by omega), toNat_byteOf (n := qlim) (by omega)⟩

/-! ### Request frames (Table 9-1, R152) -/

theorem execAll_cons {c : Instr} {cs : List Instr} {v : State} (h : exec c s = .next v) :
    execAll (c :: cs) s = execAll cs v := by
  rw [execAll, h]

/-- The unit of a link whose framer has taken one more character of the frame. -/
theorem joined_setFramer (s : State) (l : Link) (x : Framer) (f : Frame) :
    (s.setLink l { s.link l with framer := x }).setLink l
      (((s.setLink l { s.link l with framer := x }).link l).joined f) = s.setLink l ((s.link l).joined f) := by
  simp [LinkUnit.joined]

/-- R152, R153: the characters still to come of a frame, with its CRC right and room for it. -/
theorem execAll_content {body : List Byte} {tag code : Byte} (hcrc : crcBytes (byteOf (body.length + 2) ::
    tag :: code :: body) = check) (cs : List Byte) (s : State) (got : List Byte) (gap : Nat)
    (hup : (s.link l).line = .up) (hf : (s.link l).framer = .content (body.length + 2) got gap)
    (hq : (s.link l).requestQueue.length < 4) (hcs : cs ≠ [])
    (hchars : got ++ cs = tag :: code :: body ++ check) :
    execAll (cs.map (Instr.characterReceived l)) s =
      .next (s.setLink l ((s.link l).joined ⟨tag, code, body⟩)) := by
  induction cs generalizing s got gap with
  | nil => exact absurd rfl hcs
  | cons c cs ih =>
    obtain ⟨-, -, -, hcontent⟩ := characterByFramerState s l c hup
    obtain ⟨hmore, hlast⟩ := hcontent _ got gap hf
    rw [List.map_cons]
    cases cs with
    | nil =>
      obtain ⟨hgood, -⟩ := hlast tag code body check hchars rfl (by rw [← hcrc]; rfl)
      rw [execAll_cons (hgood hcrc.symm hq), joined_eq]
      rfl
    | cons c' cs =>
      have hcount : got.length + (c :: c' :: cs).length = body.length + 4 := by
        rw [← List.length_append, hchars, ← hcrc]
        simp [crcBytes, wordBytes]
      have hlt : got.length + 1 < body.length + 2 + 2 := by
        simp only [List.length_cons] at hcount
        omega
      rw [execAll_cons (hmore hlt), ← joined_setFramer s l
        (.content (body.length + 2) (got ++ [c]) (s.now + 20))]
      exact ih _ (got ++ [c]) (s.now + 20) (by simpa using hup) (by simp) (by simpa using hq)
        (List.cons_ne_nil _ _) (by rw [List.append_assoc]; exact hchars)

theorem execAll_request (hup : (s.link l).line = .up) (hf : (s.link l).framer = .hunt)
    (hq : (s.link l).requestQueue.length < 4) (hb : f.body.length ≤ 78) :
    execAll ((requestCharacters f).map (Instr.characterReceived l)) s =
      .next (s.setLink l ((s.link l).joined f)) := by
  obtain ⟨hstart, -⟩ := characterByFramerState s l requestStart hup
  rw [requestCharacters, List.map_cons, execAll_cons (hstart hf rfl), frameCore, List.cons_append,
    List.map_cons, ← joined_setFramer s l (.length (s.now + 20))]
  generalize hv : s.setLink l { s.link l with framer := .length (s.now + 20) } = v
  have hlink : v.link l = { s.link l with framer := .length (s.now + 20) } := by
    rw [← hv, State.link_setLink_self]
  obtain ⟨-, -, hlength, -⟩ := characterByFramerState v l (byteOf (f.body.length + 2))
    (by rw [hlink]; exact hup)
  obtain ⟨hgoes, -⟩ := hlength (s.now + 20) (by rw [hlink])
  rw [toNat_byteOf (by omega)] at hgoes
  rw [execAll_cons (hgoes (by omega) (by omega)),
    ← joined_setFramer v l (.content (f.body.length + 2) [] (v.now + 20))]
  exact execAll_content rfl _ _ [] (v.now + 20) (by simpa [hlink] using hup) (by simp)
    (by simpa [hlink] using hq) (by simp) rfl

/-- Table 9-8, Table 7-1: the bytes and the class of a notice, from those of its detail. -/
theorem notice_bytes (x : Subject) (d : Detail) : Notice.bytes ⟨x, d⟩ = byteOf d.kind ::
    (match x with
      | .handle i g => [byteOf i, byteOf (g / 256), byteOf g]
      | .bus b => [byteOf b.val, 0, 0]) ++ d.bytes := by
  cases x <;> rfl

/-- Settles O55: the tables by evaluation, the fields and the frames by reading back. -/
theorem formatsReadBack : Obligations.FormatsReadBack := by
  refine ⟨rfl, rfl, rfl, ⟨rfl, rfl, rfl, rfl, rfl, rfl, rfl, rfl, rfl, rfl, rfl, fun b => rfl,
    fun f a c key d => ⟨rfl, rfl, rfl⟩⟩, fun x revoked left fault m up n ended tag status kind => ?_,
    fun f front rest h => fieldsAt_bytes f front rest h, fun s l f hup hf hq hb => ?_⟩
  · intro flag subject holds
    have hholds : ∀ d k cls detail, byteOf d.kind = k → d.noticeClass = cls → d.bytes = detail →
        holds d k cls detail := fun d k cls detail hk hc hd => by
      subst hk hd
      exact ⟨notice_bytes x d, hc⟩
    have hflag : flagByte up = flag := rfl
    exact ⟨hholds _ _ _ _ rfl rfl rfl, hholds _ _ _ _ rfl rfl rfl, hholds _ _ _ _ rfl rfl rfl,
      hholds _ _ _ _ rfl rfl rfl, hholds _ _ _ _ rfl rfl rfl, hholds _ _ _ _ rfl rfl rfl,
      hholds _ _ _ _ rfl rfl rfl, hholds _ _ _ _ rfl rfl rfl⟩
  · rw [execAll_request hup hf hq hb, joined_eq]
    simp [hf]

end Sys2Proof.Machine

/-! The teardown of a session (R116, R117, R81; O5) in its three parts: what tearing the records, the slots
and the grant passes each leave of every slot and record, and the three put together. -/

namespace Sys2Proof.Machine

variable {s v u : State} {l : Link} {i : SlotIx} {t x : EntryIx} {p q : PoolIx} {r : Record} {b : SlotBody}

/-! ### The records (R81) -/

/-- R81: what tearing the session of `l` makes of one of its records, before its slots are torn. -/
def Record.torn (l : Link) (r : Record) : Option Record :=
  if r.destination ≠ some l then some r
  else match r.state with
    | .done => none
    | .active => some { r with destination := none }
    | .queued => if r.kind = .store then some { r with destination := none } else none

theorem Record.torn_eq_some {r' : Record} (h : r.torn l = some r') :
    r'.destination ≠ some l ∧ r'.state = r.state ∧ r'.handle = r.handle := by
  unfold Record.torn at h
  split at h
  case isTrue hd =>
    cases h
    exact ⟨hd, rfl, rfl⟩
  have hfreed : { r with destination := none } = r' →
      r'.destination ≠ some l ∧ r'.state = r.state ∧ r'.handle = r.handle := by
    rintro rfl
    exact ⟨nofun, rfl, rfl⟩
  split at h
  · cases h
  · exact hfreed (Option.some.inj h)
  · split at h
    · exact hfreed (Option.some.inj h)
    · cases h

/-- What tearing records does to the slots: some HELD ones of the session lose their reference. -/
def Relieved (l : Link) (s v : State) : Prop :=
  ∀ i, v.slot i = s.slot i ∨ ∃ h, (s.slot i).body = .held h ∧ h.owner = l ∧
    v.slot i = { s.slot i with body := .held { h with inFlight := none } }

theorem Relieved.refl (l : Link) (s : State) : Relieved l s s := fun _ => .inl rfl

theorem Relieved.trans (h : Relieved l s v) (g : Relieved l v u) : Relieved l s u := fun i => by
  rcases h i with hi | ⟨a, hb, ho, hi⟩
  · simpa only [hi] using g i
  · rcases g i with gi | ⟨a', hb', -, gi⟩
    · exact .inr ⟨a, hb, ho, gi.trans hi⟩
    · rw [hi] at hb'
      cases hb'
      exact .inr ⟨a, hb, ho, by rw [gi, hi]⟩

/-- What tearing some records leaves. -/
structure RecordsTorn (l : Link) (ps : List PoolIx) (s v : State) : Prop where
  record : ∀ q, v.record q = if q ∈ ps then (s.record q).bind (Record.torn l) else s.record q
  queue : ∀ b, (v.busQueue b).Sublist (s.busQueue b)
  slots : Relieved l s v

theorem recordsTorn_setRecord {y : Option Record} (hr : s.record p = some r) (hy : r.torn l = y) :
    RecordsTorn l [p] s (s.setRecord p y) := by
  refine ⟨fun q => ?_, fun b => .refl _, .refl l s⟩
  by_cases hq : q = p <;> simp [hq, hr, hy]

theorem RecordsTorn.freed {ps : List PoolIx} (h : RecordsTorn l ps s (v.setRecord p none)) :
    RecordsTorn l ps s (v.freeRecord p) := ⟨h.record, h.queue, h.slots⟩

/-- A QUEUED READ or WRITE of the session is that of a HELD slot of its own, which is told. -/
theorem discardQueued_torn (h : s.FlightLawIn (some l)) (hr : s.record p = some r)
    (hs : r.state = .queued) (hk : r.kind ≠ .store) (hd : r.destination = some l) :
    RecordsTorn l [p] s (s.discardQueued p r) := by
  have hqueue : ∀ b, ((s.leaveBusQueue r.bus p).busQueue b).Sublist (s.busQueue b) := fun b => by
    by_cases hb : b = r.bus
    · simp [State.leaveBusQueue, hb]
    · simp [State.leaveBusQueue, hb]
  have hfreed : RecordsTorn l [p] s ((s.leaveBusQueue r.bus p).freeRecord p) := by
    refine ⟨fun q => ?_, hqueue, .refl l s⟩
    by_cases hq : q = p
    · simp [record_freeRecord, hq, hr, Record.torn, hd, hs, hk]
    · simp [record_freeRecord, hq, Ne.symm hq]
  unfold State.discardQueued State.dropFlight
  dsimp only
  split
  case h_2 => exact hfreed
  split
  case isFalse => exact hfreed
  split
  case h_2 => exact hfreed
  rename_i g hg _ _ hs' hb
  refine ⟨hfreed.record, hqueue, fun i => ?_⟩
  by_cases hi : i = g.slot
  · subst hi
    obtain ⟨hin, -⟩ := h.2.1 p r g hr (hs ▸ nofun) hg
    obtain ⟨r', hr', -, -, howner⟩ := h.1 g.slot p hin
    cases hr.symm.trans hr'
    have hb : (s.slot g.slot).body = .held hs' := by simpa using hb
    have howner := hd.symm.trans (howner.resolve_right fun hn => by simp [hd] at hn)
    rw [hb] at howner
    exact .inr ⟨hs', hb, (Option.some.inj howner).symm, by simp [State.setBody_eq]⟩
  · exact .inl (by simp [State.setBody_eq, hi])

theorem tearRecord_torn (h : s.FlightLawIn (some l)) (p : PoolIx) :
    RecordsTorn l [p] s (State.tearRecord l s p) := by
  unfold State.tearRecord
  split
  · rename_i hr
    exact ⟨fun q => by by_cases hq : q = p <;> simp [hq, hr], fun _ => .refl _, .refl l s⟩
  rename_i r hr
  split
  case isFalse hd =>
    exact ⟨fun q => by by_cases hq : q = p <;> simp [hq, hr, Record.torn, hd], fun _ => .refl _, .refl l s⟩
  rename_i hd
  split
  · rename_i hs
    exact (recordsTorn_setRecord (y := none) hr (by simp [Record.torn, hd, hs])).freed
  · rename_i hs
    exact recordsTorn_setRecord hr (by simp [Record.torn, hd, hs])
  · rename_i hs
    split
    · rename_i hk
      exact recordsTorn_setRecord hr (by simp [Record.torn, hd, hs, hk])
    · rename_i hk
      exact discardQueued_torn h hr hs hk hd

theorem TxLaw.recordsTorn {W : Prop} (ps : List PoolIx) (hn : ps.Nodup) (h : TxLaw W (some l) [] s) :
    RecordsTorn l ps s (ps.foldl (State.tearRecord l) s) := by
  induction ps generalizing s with
  | nil => exact ⟨by simp, fun _ => .refl _, .refl l s⟩
  | cons p ps ih =>
    obtain ⟨hp, hn⟩ := List.nodup_cons.mp hn
    have hone := tearRecord_torn h.flight p
    have hrest := ih hn (h.tearRecord p)
    refine ⟨fun q => (hrest.record q).trans ?_, fun b => (hrest.queue b).trans (hone.queue b),
      hone.slots.trans hrest.slots⟩
    rw [hone.record]
    by_cases hqp : q = p
    · simp [hqp, hp]
    · simp [hqp]

/-! ### The slots (R117) -/

/-- R117: what tearing the session of `l` makes of a slot. -/
def State.tornBody (s : State) (l : Link) : SlotBody → SlotBody
  | .free => .free
  | .waiting w => if w.owner = l then .free else .waiting w
  | .held h =>
    if h.owner = l then
      match s.flight h.inFlight with
      | .active _ => .ending ⟨none, h.target, h.mode, h.inFlight, .session⟩
      | _ => .free
    else .held h
  | .ending e => .ending (if e.owner = some l then { e with owner := none } else e)

theorem flight_eq_active {y : Option PoolIx} (h : s.flight y = .active p) :
    ∃ r, y = some p ∧ s.record p = some r ∧ r.state = .active := by
  cases y with
  | none => cases h
  | some q =>
    cases hr : s.record q with
    | none => simp [State.flight, hr] at h
    | some r => cases hs : r.state <;> simp_all [State.flight]

/-- What tearing some slots leaves: the records in flight there may be stop-requested. -/
structure SlotsTorn (l : Link) (is : List SlotIx) (s v : State) : Prop where
  generation : ∀ i, (v.slot i).generation = (s.slot i).generation
  body : ∀ i, (v.slot i).body = if i ∈ is then s.tornBody l (s.slot i).body else (s.slot i).body
  record : ∀ p, v.record p = s.record p ∨ ∃ r i, s.record p = some r ∧
    (s.slot i).body.inFlight? = some p ∧ (s.slot i).body.owner? = some l ∧ i ∈ is ∧
    v.record p = some { r with stopRequested := true }
  queue : ∀ b, v.busQueue b = s.busQueue b

theorem SlotsTorn.flight {is : List SlotIx} (h : SlotsTorn l is s v) (y : Option PoolIx) :
    v.flight y = s.flight y := by
  cases y with
  | none => rfl
  | some p => rcases h.record p with hp | ⟨r, -, hr, -, -, -, hp⟩ <;> simp only [State.flight, *]

theorem SlotsTorn.tornBody {is : List SlotIx} (h : SlotsTorn l is s v) (b : SlotBody) :
    v.tornBody l b = s.tornBody l b := by
  cases b <;> simp only [State.tornBody, h.flight]

theorem slotsTorn_of_same (h : s.tornBody l (s.slot i).body = (s.slot i).body) : SlotsTorn l [i] s s := by
  refine ⟨fun _ => rfl, fun j => ?_, fun _ => .inl rfl, fun _ => rfl⟩
  by_cases hj : j = i <;> simp [hj, h]

theorem slotsTorn_vacate (h : s.tornBody l (s.slot i).body = .free) (t : EntryIx) :
    SlotsTorn l [i] s (s.vacate i t) := by
  refine ⟨fun j => ?_, fun j => ?_, fun _ => .inl rfl, fun _ => rfl⟩ <;>
    by_cases hj : j = i <;> simp [State.vacate, State.freeSlot_eq, hj, h]

theorem tearSlot_torn (l : Link) (s : State) (i : SlotIx) : SlotsTorn l [i] s (State.tearSlot l s i) := by
  unfold State.tearSlot
  split
  · rename_i hb
    exact slotsTorn_of_same (by rw [hb]; rfl)
  · rename_i w hb
    split <;> rename_i ho
    · exact slotsTorn_vacate (by simp [hb, State.tornBody, ho]) _
    · exact slotsTorn_of_same (by simp [hb, State.tornBody, ho])
  · rename_i h hb
    split <;> rename_i ho
    case isFalse => exact slotsTorn_of_same (by simp [hb, State.tornBody, ho])
    split
    · rename_i p hf
      obtain ⟨r, hp, hr, -⟩ := flight_eq_active hf
      rw [becomeEnding_eq hp hr]
      refine ⟨fun j => ?_, fun j => ?_, fun q => ?_, fun _ => rfl⟩
      · by_cases hj : j = i <;> simp [State.setBody_eq, hj]
      · by_cases hj : j = i
        · simp [State.setBody_eq, hj, hb, State.tornBody, ho, ← hp, hf]
        · simp [State.setBody_eq, hj]
      · by_cases hq : q = p
        · subst hq
          exact .inr ⟨r, i, hr, by rw [hb]; exact hp, by rw [hb]; exact congrArg some ho,
            List.mem_singleton_self i, State.record_setRecord_self ..⟩
        · exact .inl (State.record_setRecord_ne _ hq _)
    · rename_i hf
      refine slotsTorn_vacate ?_ _
      simp only [hb, State.tornBody, ho, if_true]
  · rename_i e hb
    split <;> rename_i ho
    · refine ⟨fun j => ?_, fun j => ?_, fun _ => .inl rfl, fun _ => rfl⟩ <;>
        by_cases hj : j = i <;> simp [State.setBody_eq, hj, hb, State.tornBody, ho]
    · exact slotsTorn_of_same (by simp [hb, State.tornBody, ho])

theorem slotsTorn (l : Link) (is : List SlotIx) (hn : is.Nodup) (s : State) :
    SlotsTorn l is s (is.foldl (State.tearSlot l) s) := by
  induction is generalizing s with
  | nil => exact ⟨fun _ => rfl, by simp, fun _ => .inl rfl, fun _ => rfl⟩
  | cons i is ih =>
    obtain ⟨hi, hn⟩ := List.nodup_cons.mp hn
    have hone := tearSlot_torn l s i
    have hrest := ih hn (State.tearSlot l s i)
    refine ⟨fun j => (hrest.generation j).trans (hone.generation j), fun j => (hrest.body j).trans ?_,
      fun p => ?_, fun b => (hrest.queue b).trans (hone.queue b)⟩
    · rw [hone.tornBody, hone.body]
      by_cases hji : j = i
      · simp [hji, hi]
      · simp [hji]
    · have hbody : ∀ j ∈ is, ((State.tearSlot l s i).slot j).body = (s.slot j).body := fun j hj =>
        (hone.body j).trans (if_neg fun h => hi (by rwa [← List.mem_singleton.mp h]))
      rcases hone.record p with hp | ⟨r, j, hr, hin, ho, hj, hp⟩
      · rw [← hp]
        refine (hrest.record p).imp_right fun ⟨r, j, hr, hin, ho, hj, hv⟩ => ?_
        rw [hbody j hj] at hin ho
        exact ⟨r, j, hr, hin, ho, List.mem_cons_of_mem _ hj, hv⟩
      · refine .inr ⟨r, j, hr, hin, ho, List.mem_cons.mpr (.inl (List.mem_singleton.mp hj)), ?_⟩
        rcases hrest.record p with hv | ⟨r', -, hr', -, -, -, hv⟩
        · exact hv.trans hp
        · cases hp.symm.trans hr'
          exact hv

/-! ### The grant passes (R40) -/

/-- What grants can make of a slot. -/
inductive Granted : SlotBody → SlotBody → Prop
  | same (b : SlotBody) : Granted b b
  | waiting {w : WaitingSlot} {h : HeldSlot} (owner : h.owner = w.owner) (target : h.target = w.target)
      (mode : h.mode = w.mode) (upgrade : h.upgrade = none) : Granted (.waiting w) (.held h)
  | upgraded {h : HeldSlot} (upgrade : h.upgrade ≠ none) :
      Granted (.held h) (.held { h with mode := .exclusive, upgrade := none })

theorem Granted.trans {a b c : SlotBody} (h : Granted a b) (g : Granted b c) : Granted a c := by
  cases h with
  | same => exact g
  | waiting ho ht hm hu =>
    cases g with
    | same => exact .waiting ho ht hm hu
    | upgraded hup => exact absurd hu hup
  | upgraded hu =>
    cases g with
    | same => exact .upgraded hu
    | upgraded hup => exact absurd rfl hup

theorem Granted.of_free (h : Granted .free b) : b = .free := by
  cases h
  rfl

theorem Granted.of_ending {e : EndingSlot} (h : Granted (.ending e) b) : b = .ending e := by
  cases h
  rfl

theorem Granted.of_waiting {w : WaitingSlot} (h : Granted (.waiting w) b) : b = .waiting w ∨
    ∃ g, b = .held g ∧ g.owner = w.owner ∧ g.target = w.target ∧ g.mode = w.mode := by
  cases h with
  | same => exact .inl rfl
  | waiting ho ht hm _ => exact .inr ⟨_, rfl, ho, ht, hm⟩

theorem Granted.of_held {g : HeldSlot} (h : Granted (.held g) b) : b = .held g ∨
    g.upgrade ≠ none ∧ b = .held { g with mode := .exclusive, upgrade := none } := by
  cases h with
  | same => exact .inl rfl
  | upgraded hu => exact .inr ⟨hu, rfl⟩

/-- What grants can make of all slots. -/
def AllGranted (s v : State) : Prop :=
  ∀ i, (v.slot i).generation = (s.slot i).generation ∧ Granted (s.slot i).body (v.slot i).body

theorem AllGranted.refl (s : State) : AllGranted s s := fun _ => ⟨rfl, .same _⟩

theorem AllGranted.trans (h : AllGranted s v) (g : AllGranted v u) : AllGranted s u := fun i =>
  ⟨(g i).1.trans (h i).1, (h i).2.trans (g i).2⟩

theorem allGranted_grantHead (h : s.grantHead i = some v) : AllGranted s v := by
  obtain ⟨hothers, hgen, -⟩ := grantHead_slots h
  intro j
  by_cases hji : j = i
  case neg => exact hothers j hji ▸ AllGranted.refl s j
  subst hji
  refine ⟨hgen, ?_⟩
  unfold State.grantHead at h
  split at h
  · rename_i w hb
    split at h
    · cases h
      have hbody : ∃ g, ((s.grantWaiting j w).slot j).body = .held g ∧ g.owner = w.owner ∧
          g.target = w.target ∧ g.mode = w.mode ∧ g.upgrade = none := by
        rw [grantWaiting_eq]
        dsimp only
        split <;> simp [State.setBody_eq, grantedSlot]
      obtain ⟨g, hbody, ho, ht, hm, hu⟩ := hbody
      rw [hb, hbody]
      exact .waiting ho ht hm hu
    · cases h
  · rename_i g hb
    split at h
    · rename_i hu
      cases h
      have hbody : ((s.grantUpgrade j g).slot j).body =
          .held { g with mode := .exclusive, upgrade := none } := by
        simp [State.grantUpgrade, State.setBody_eq]
      rw [hb, hbody]
      exact .upgraded (Option.isSome_iff_ne_none.mp hu.1)
    · cases h
  · cases h
  · cases h

theorem allGranted_grantLoop (t : EntryIx) (q : List SlotIx) (s : State) :
    AllGranted s (grantLoop t q s) := by
  induction q generalizing s with
  | nil => exact .refl s
  | cons i rest ih =>
    rw [grantLoop]
    cases hg : (s.setWaitQueue t rest).grantHead i with
    | none => exact .refl s
    | some s' =>
      have hone : AllGranted (s.setWaitQueue t rest) s' := allGranted_grantHead hg
      exact AllGranted.trans (fun i => hone i : AllGranted s s') (ih s')

theorem allGranted_passes (ts : List EntryIx) (s : State) : AllGranted s (ts.foldl State.grantPass s) :=
  foldl_keep (P := AllGranted s) State.grantPass
    (fun v t hv => hv.trans (allGranted_grantLoop t _ v)) s ts (.refl s)

theorem waitLaw_effects (h : Effects s v) (hs : s.WaitLaw) : v.WaitLaw :=
  h.moves.keep (fun _ _ => waitLaw_move) hs

/-- The passes leave a blocked head on each of their targets. -/
theorem headBlocked_passes (ts : List EntryIx) (hw : s.WaitLaw) (hx : x ∈ ts ∨ s.HeadBlocked x) :
    (ts.foldl State.grantPass s).HeadBlocked x := by
  induction ts generalizing s with
  | nil => exact hx.resolve_left List.not_mem_nil
  | cons t ts ih =>
    refine ih (waitLaw_effects (effects_grantPass s t) hw) ?_
    rcases hx with hx | hx
    · rcases List.mem_cons.mp hx with rfl | hx
      · exact .inr (grantPass_settled (hw.1 x)).blocked
      · exact .inl hx
    · exact .inr (headBlocked_grantPass (hw.1 x) (hw.1 t) hx)

/-! ### The whole teardown -/

/-- The stages of a teardown: the records torn, the slots torn, and the passes run. -/
structure Stages (l : Link) (s s₁ s₂ t : State) : Prop where
  before : TxLaw True none [] s
  records : RecordsTorn l poolIndices s s₁
  between : TxLaw True (some l) [] s₁
  slots : SlotsTorn l slotIndices s₁ s₂
  granted : AllGranted s₂ t
  record : ∀ p, t.record p = s₂.record p
  queue : ∀ b, t.busQueue b = s₂.busQueue b
  after : TxLaw True none [] t

/-- R81: what is left of a record of the session of `l` in the end. -/
def Record.left (l : Link) (r : Record) : Option Record :=
  if r.destination ≠ some l then some r
  else match r.state, r.kind with
    | .done, _ => none
    | .queued, .store => some { r with destination := none }
    | .queued, _ => none
    | .active, .store => some { r with destination := none }
    | .active, _ => some { r with destination := none, stopRequested := true }

section
variable {s₁ s₂ : State} {y : State}

theorem Stages.record_torn (h : Stages l s s₁ s₂ y) (p : PoolIx) :
    s₁.record p = (s.record p).bind (Record.torn l) := by
  rw [h.records.record, if_pos (show p ∈ poolIndices from List.mem_finRange p)]

/-- A record in use when the slots are torn has been so, and is not the session's any more. -/
theorem Stages.torn_from (h : Stages l s s₁ s₂ y) (hr : s₁.record p = some r) :
    ∃ r', s.record p = some r' ∧ r.destination ≠ some l ∧ r.state = r'.state ∧ r.handle = r'.handle := by
  rw [h.record_torn, Option.bind_eq_some_iff] at hr
  obtain ⟨r', hr', hr⟩ := hr
  exact ⟨r', hr', Record.torn_eq_some hr⟩

theorem State.tornBody_held {g : HeldSlot} (hb : b = .held g) (ho : g.owner = l) : s.tornBody l b =
    match s.flight g.inFlight with
    | .active _ => .ending ⟨none, g.target, g.mode, g.inFlight, .session⟩
    | _ => .free := by
  simp only [hb, State.tornBody, ho, if_true]

/-- Tearing the records leaves the reference of a HELD slot of the session just where its record is
ACTIVE. -/
theorem Stages.tornBody_held (h : Stages l s s₁ s₂ y) {g : HeldSlot} (hb : (s.slot i).body = .held g)
    (ho : g.owner = l) : s₁.tornBody l (s₁.slot i).body = s.tornBody l (s.slot i).body := by
  have hslot := h.records.slots i
  cases hf : s.flight g.inFlight with
  | active p =>
    obtain ⟨r, hp, hr, hs⟩ := flight_eq_active hf
    obtain ⟨r', hr', -, hh, hd⟩ := (flightLawIn_none.mp h.before.flight).1 i p (by rw [hb]; exact hp)
    cases hr.symm.trans hr'
    have hd : r.destination = some l := by rw [hd, hb, ← ho]; rfl
    have hr₁ : s₁.record p = some { r with destination := none } := by
      rw [h.record_torn, hr]
      simp [Record.torn, hd, hs]
    obtain ⟨hin, -⟩ := h.between.flight.2.1 p _ _ hr₁ (by simp [hs]) hh
    have hsame : s₁.slot i = s.slot i := hslot.resolve_right fun ⟨_, _, _, hi⟩ => by
      simp [hi, SlotBody.inFlight?] at hin
    rw [hsame, State.tornBody_held hb ho, State.tornBody_held hb ho, hf, hp, flight_active hr₁ hs]
  | none | queued =>
    obtain ⟨g', hb', ho', hsub⟩ : ∃ g', (s₁.slot i).body = .held g' ∧ g'.owner = l ∧
        (g' = g ∨ g'.inFlight = none) := by
      rcases hslot with hi | ⟨g', hb', ho', hi⟩
      · exact ⟨g, hi ▸ hb, ho, .inl rfl⟩
      · exact ⟨{ g' with inFlight := none }, by rw [hi], ho', .inr rfl⟩
    have hidle : ∀ q, s₁.flight g'.inFlight ≠ .active q := fun q hq => by
      obtain ⟨r, hp, hr, hs⟩ := flight_eq_active hq
      obtain ⟨r', hr', -, hs', -⟩ := h.torn_from hr
      rcases hsub with rfl | hn
      · rw [hp, flight_active hr' (hs'.symm.trans hs)] at hf
        cases hf
      · cases hn.symm.trans hp
    rw [State.tornBody_held hb' ho', State.tornBody_held hb ho, hf]
    split
    · exact absurd ‹_› (hidle _)
    · rfl

/-- Tearing the records does not change what becomes of a slot. -/
theorem Stages.tornBody_eq (h : Stages l s s₁ s₂ y) (i : SlotIx) :
    s₁.tornBody l (s₁.slot i).body = s.tornBody l (s.slot i).body := by
  rcases h.records.slots i with hi | ⟨g, hb, ho, -⟩
  · rw [hi]
    cases hb : (s.slot i).body with
    | held g =>
      by_cases ho : g.owner = l
      · rw [← hb, ← h.tornBody_held hb ho, hi]
      · simp only [State.tornBody, ho, if_false]
    | free | waiting | ending => rfl
  · exact h.tornBody_held hb ho

theorem Stages.granted_slot (h : Stages l s s₁ s₂ y) (i : SlotIx) :
    (y.slot i).generation = (s.slot i).generation ∧
      Granted (s.tornBody l (s.slot i).body) (y.slot i).body := by
  obtain ⟨hgen, hg⟩ := h.granted i
  rw [h.slots.body, if_pos (show i ∈ slotIndices from List.mem_finRange i), h.tornBody_eq] at hg
  refine ⟨hgen.trans ((h.slots.generation i).trans ?_), hg⟩
  rcases h.records.slots i with hi | ⟨_, _, _, hi⟩ <;> rw [hi]

/-- Tearing the slots requests a stop of a READ or WRITE of the session, and touches no other record. -/
theorem Stages.record_stopped (h : Stages l s s₁ s₂ y) (p : PoolIx) : y.record p = s₁.record p ∨
    ∃ r, s.record p = some r ∧ r.destination = some l ∧ r.kind ≠ .store ∧
      ∃ r', s₁.record p = some r' ∧ y.record p = some { r' with stopRequested := true } := by
  rw [h.record]
  refine (h.slots.record p).imp_right fun ⟨r', i, hr', hin, ho, _, hp⟩ => ?_
  have hsame : s₁.slot i = s.slot i := (h.records.slots i).resolve_right fun ⟨_, _, _, hi⟩ => by
    simp [hi, SlotBody.inFlight?] at hin
  rw [hsame] at hin ho
  obtain ⟨r, hr, -, hh, hd⟩ := (flightLawIn_none.mp h.before.flight).1 i p hin
  exact ⟨r, hr, hd.trans ho, fun hk => (nomatch hh.symm.trans ((h.before.store.1 p r hr).mp hk)),
    r', hr', hp⟩

/-- The slot of an ACTIVE READ or WRITE of the session is ENDING in the end, so its stop is requested. -/
theorem Stages.stopRequested (h : Stages l s s₁ s₂ y) (hr : s.record p = some r)
    (hd : r.destination = some l) (hs : r.state = .active) (hk : r.kind ≠ .store)
    {r' : Record} (hr' : y.record p = some r') : r'.stopRequested = true := by
  obtain ⟨g, hg⟩ := Option.ne_none_iff_exists'.mp fun hn => hk ((h.before.store.1 p r hr).mpr hn)
  obtain ⟨hin, hgen⟩ := h.before.flight.2.1 p r g hr (by simp [hs]) hg
  obtain ⟨r₀, hr₀, -, -, howner⟩ := (flightLawIn_none.mp h.before.flight).1 g.slot p hin
  cases hr.symm.trans hr₀
  obtain ⟨e, hbody, hep⟩ : ∃ e, s.tornBody l (s.slot g.slot).body = .ending e ∧ e.inFlight = some p := by
    rw [hd] at howner
    cases hb : (s.slot g.slot).body with
    | free | waiting => simp [hb, SlotBody.inFlight?] at hin
    | held k =>
      rw [hb] at hin howner
      have hp : k.inFlight = some p := hin
      rw [State.tornBody_held rfl (Option.some.inj howner).symm, hp, flight_active hr hs]
      exact ⟨_, rfl, rfl⟩
    | ending e =>
      rw [hb] at hin
      refine ⟨_, rfl, ?_⟩
      split <;> exact hin
  have he : (y.slot g.slot).body = .ending e := by
    have hgr := (h.granted_slot g.slot).2
    rw [hbody] at hgr
    exact hgr.of_ending
  obtain ⟨q, r₂, hq, hr₂, -, hstop⟩ := h.after.flight.2.2 g.slot e he
  cases hep.symm.trans hq
  cases hr'.symm.trans hr₂
  exact hstop

theorem Stages.record_left (h : Stages l s s₁ s₂ y) (p : PoolIx) :
    y.record p = (s.record p).bind (Record.left l) := by
  have hstop := h.record_stopped p
  have htorn := h.record_torn p
  cases hr : s.record p with
  | none => simp_all
  | some r =>
    simp only [hr, Option.bind_some, Option.some.injEq, exists_eq_left'] at hstop htorn ⊢
    by_cases hd : r.destination = some l
    case neg =>
      rw [hstop.resolve_right fun hn => hd hn.1, htorn]
      simp only [Record.torn, Record.left, ne_eq, hd, not_false_eq_true, if_true]
    by_cases hk : r.kind = .store
    · rw [hstop.resolve_right fun hn => hn.2.1 hk, htorn]
      cases hs : r.state <;> simp [Record.torn, Record.left, hd, hk, hs]
    cases hs : r.state with
    | done | queued =>
      have hnone : s₁.record p = none := by rw [htorn]; simp [Record.torn, hd, hk, hs]
      have hsame : y.record p = none := by simpa [hnone] using hstop
      rw [hsame]
      cases hk' : r.kind <;> simp_all [Record.left]
    | active =>
      have hsome : s₁.record p = some { r with destination := none } := by
        rw [htorn]
        simp [Record.torn, hd, hs]
      have hleft : r.left l = some { r with destination := none, stopRequested := true } := by
        cases hk' : r.kind <;> simp_all [Record.left]
      rw [hleft]
      rcases hstop with hp | ⟨-, -, r', hr', hp⟩
      · have hrequested := h.stopRequested hr hd hs hk (hp.trans hsome)
        rw [hp, hsome, ← hrequested]
      · cases hsome.symm.trans hr'
        exact hp

theorem eq_filter_of_sublist {α : Type} {a b : List α} {f : α → Bool} (h : a.Sublist b) (hn : b.Nodup)
    (hf : ∀ z ∈ b, z ∈ a ↔ f z = true) : a = b.filter f := by
  have hperm : a.Perm (b.filter f) := (List.perm_ext_iff_of_nodup (h.nodup hn) (hn.filter f)).mpr
    fun z => by
      rw [List.mem_filter]
      exact ⟨fun hz => ⟨h.subset hz, (hf z (h.subset hz)).mp hz⟩, fun ⟨hz, hfz⟩ => (hf z hz).mpr hfz⟩
  have hkept : a.filter f = a := List.filter_eq_self.mpr fun z hz => (hf z (h.subset hz)).mp hz
  exact (hkept ▸ h.filter f).eq_of_length hperm.length_eq

theorem Stages.queue_left (h : Stages l s s₁ s₂ y) (b : BusIx) :
    y.busQueue b = (s.busQueue b).filter fun p => match s.record p with
      | some r => !(decide (r.destination = some l ∧ r.kind ≠ .store))
      | none => true := by
  refine eq_filter_of_sublist ?_ (h.before.queue_nodup b) fun p hp => ?_
  · rw [h.queue, h.slots.queue]
    exact h.records.queue b
  obtain ⟨-, r, hr, hs, hb⟩ := (h.before.mem_queue b p).mp hp
  have hmem := h.after.mem_queue b p
  simp only [State.recordOn, h.record_left, hr, Option.bind_some, List.not_mem_nil, not_false_eq_true,
    true_and] at hmem
  rw [hmem]
  by_cases hd : r.destination = some l
  · cases hk : r.kind <;> simp [hr, Record.left, hd, hs, hk, hb]
  · simp [hr, Record.left, hd, hs, hb]

end

/-- The passes leave the records and the queues they stand in. -/
theorem passes_frame (ts : List EntryIx) (s : State) :
    (∀ p, (ts.foldl State.grantPass s).record p = s.record p) ∧
      ∀ b, (ts.foldl State.grantPass s).busQueue b = s.busQueue b :=
  foldl_keep (P := fun v => (∀ p, v.record p = s.record p) ∧ ∀ b, v.busQueue b = s.busQueue b)
    State.grantPass (fun v t hv => by simpa using hv) s ts ⟨fun _ => rfl, fun _ => rfl⟩

theorem tearHoldings_stages (h : TxLaw True none [] s) (l : Link) : ∃ s₁ s₂,
    RecordsTorn l poolIndices s s₁ ∧ TxLaw True (some l) [] s₁ ∧ SlotsTorn l slotIndices s₁ s₂ ∧
      Effects s s₂ ∧ s.tearHoldings l = (s.tearTargets l).foldl State.grantPass s₂ := by
  have hlaw := foldl_keep (P := TxLaw True (some l) []) (State.tearRecord l)
    (fun s p hs => hs.tearRecord p) _ poolIndices (h.beginTeardown l)
  have htorn := (h.beginTeardown l).recordsTorn poolIndices (List.nodup_finRange 16)
  have hrecords := (effects_setWaitingDone s l [] fun _ _ => rfl).trans
    (effects_foldl _ (effects_tearRecord l) _ poolIndices)
  unfold State.tearHoldings
  dsimp only
  generalize poolIndices.foldl (State.tearRecord l) (s.setWaitingDone l []) = s₁ at *
  have hslots := slotsTorn l slotIndices (List.nodup_finRange 48) s₁
  have heffects := hrecords.trans (effects_foldl _ (effects_tearSlot l) _ slotIndices)
  generalize slotIndices.foldl (State.tearSlot l) s₁ = s₂ at *
  exact ⟨s₁, s₂, ⟨htorn.record, htorn.queue, htorn.slots⟩, hlaw, hslots, heffects, rfl⟩

theorem stages_teardown (h : s.TransactionLaw) (l : Link) :
    ∃ s₁ s₂, Stages l s s₁ s₂ (s.teardown l) ∧ Effects s s₂ ∧
      s.tearHoldings l = (s.tearTargets l).foldl State.grantPass s₂ := by
  have hx := txLaw_of_transactionLaw h True
  obtain ⟨s₁, s₂, hrecords, hbetween, hslots, heffects, heq⟩ := tearHoldings_stages hx l
  obtain ⟨hrecord, hqueue⟩ := passes_frame (s.tearTargets l) s₂
  have hgranted := allGranted_passes (s.tearTargets l) s₂
  rw [← heq] at hrecord hqueue hgranted
  have hafter := hx.teardown l
  refine ⟨s₁, s₂, ?_, heffects, heq⟩
  unfold State.teardown at hafter ⊢
  generalize s.tearHoldings l = w at hrecord hqueue hgranted hafter ⊢
  exact ⟨hx, hrecords, hbetween, hslots, hgranted, hrecord, hqueue, hafter⟩

theorem headBlocked_teardown (h : (s.tearHoldings l).HeadBlocked x) : (s.teardown l).HeadBlocked x := by
  unfold State.teardown
  generalize s.tearHoldings l = w at h ⊢
  exact h

/-! ### The targets of the passes (R40, R117) -/

theorem mem_tearTargets (hx : (∃ j w, (s.slot j).body = .waiting w ∧ w.owner = l ∧ w.target = x ∧
      (s.entry x).waitQueue.head? = some j) ∨
    ∃ j h, (s.slot j).body = .held h ∧ h.owner = l ∧ h.target = x ∧
      (h.upgrade ≠ none ∨ ∀ p, s.flight h.inFlight ≠ .active p)) : x ∈ s.tearTargets l := by
  refine List.mem_filter.mpr ⟨List.mem_finRange x, List.any_eq_true.mpr ?_⟩
  rcases hx with ⟨j, w, hb, ho, ht, hhead⟩ | ⟨j, h, hb, ho, ht, hpass⟩
  · exact ⟨j, List.mem_finRange j, by simp [State.tearRunsPass, hb, ho, ht, State.isHead, hhead]⟩
  · refine ⟨j, List.mem_finRange j, ?_⟩
    simp only [State.tearRunsPass, hb, ho, ht, and_self, decide_true, Bool.true_and, State.endRunsPass]
    split
    · exact Option.isSome_iff_ne_none.mpr (hpass.resolve_right fun hn => hn _ ‹_›)
    · rfl

theorem waitingDone_teardown (s : State) (l : Link) : (s.teardown l).waitingDone l = [] ∧
    ∀ k, k ≠ l → (s.teardown l).waitingDone k = s.waitingDone k := by
  have hclosing : ∀ k, (s.teardown l).waitingDone k = (s.tearHoldings l).waitingDone k := fun k => by
    simp [State.teardown]
  obtain ⟨-, -, hdone⟩ := tearHoldings_settled s l
  refine ⟨(hclosing l).trans hdone, fun k hk => (hclosing k).trans ?_⟩
  refine tearHoldings_keep (P := fun v => v.waitingDone k = s.waitingDone k) s l (by simp [hk]) ?_ ?_ ?_
  · intro v p hv
    obtain ⟨-, -, hdone, -⟩ := tearRecord_frame l v p
    exact (hdone k).trans hv
  · intro v i hv
    obtain ⟨-, -, -, hdone, -⟩ := tearSlot_frame l v i
    exact (hdone k).trans hv
  · intro v t hv
    simpa using hv

/-- Settles O5: the slots and the records by the stages of the teardown, the passes on their targets. -/
theorem teardownLeavesNothing : Obligations.TeardownLeavesNothing := by
  intro s l h t
  obtain ⟨s₁, s₂, hst, heffects, heq⟩ := stages_teardown h l
  have hout := outsideKept_teardown s l
  obtain ⟨-, hclosed, hsession⟩ := teardown_frame s l
  obtain ⟨hdone, hdones⟩ := waitingDone_teardown s l
  refine ⟨hclosed, notice_teardown s l, hdone, fun k hk => ⟨hsession k hk, hdones k hk⟩,
    links_ext hout.link, engines_ext hout.engine, rights_ext hout.rights, hout.entry, fun i => ?_,
    hst.queue_left, fun p => ?_, fun hw x hx => ?_⟩
  · obtain ⟨hgen, hbody⟩ := hst.granted_slot i
    refine ⟨hgen, ?_⟩
    cases hb : (s.slot i).body with
    | free =>
      rw [hb] at hbody
      exact hbody.of_free
    | waiting w =>
      rw [hb, State.tornBody] at hbody
      dsimp only
      split at hbody <;> rename_i ho
      · rw [if_pos ho]
        exact hbody.of_free
      · rw [if_neg ho]
        exact hbody.of_waiting
    | held g =>
      rw [hb, State.tornBody] at hbody
      dsimp only
      split at hbody <;> rename_i ho
      · rw [if_pos ho]
        cases hf : s.flight g.inFlight <;> rw [hf] at hbody
        · exact hbody.of_free
        · exact hbody.of_free
        · exact hbody.of_ending
      · rw [if_neg ho]
        exact hbody.of_held
    | ending e =>
      rw [hb] at hbody
      exact hbody.of_ending
  · refine (hst.record_left p).trans ?_
    cases s.record p <;> rfl
  · have hblocked := headBlocked_passes (s.tearTargets l) (waitLaw_effects heffects hw)
      (.inl (mem_tearTargets hx))
    rw [← heq] at hblocked
    exact headBlocked_teardown hblocked

end Sys2Proof.Machine
